-- ==== Sys2Proof/Word.lean ====
section
/-! DEFINITION. The word types of the block. Bits are numbered from 0 at the least significant end
(00_scope.md R7), which is `BitVec`'s own numbering: `v[hi:lo]` is `v.extractLsb hi lo`. -/

namespace Sys2Proof

/-- A step word (30_encoding.md R81). -/
abbrev Word := BitVec 32

/-- A byte of the packed buffer (20_memory.md R60). -/
abbrev Byte := BitVec 8

/-- A frame element, `W_INT` = 16 bits unsigned (00_scope.md R5). -/
abbrev Elem := BitVec 16

/-- A scale factor, `W_SCALE` = 16 bits unsigned (00_scope.md R5). -/
abbrev Scale := BitVec 16

/-- A packed grayscale code, `W_CODE` = 12 bits (00_scope.md R5). -/
abbrev Code := BitVec 12

end Sys2Proof
end

