-- ==== Sys2Proof/Config.lean ====
section
/-! DEFINITION. What a build of the block fixes (00_scope.md R5, R6), the names the other files share,
and the free values: what the spec leaves open without a value. -/

namespace Sys2Proof

/-- The shift-controller strategy of a build, `STRAT` (00_scope.md R2). -/
inductive Strategy where
  | isr
  | busy
  deriving DecidableEq, Repr

/-- Which pending handler is taken first when both are pending, `IRQ_ORDER` (60_exceptions.md R205). -/
inductive IrqOrder where
  | any
  | raFirst
  | bcFirst
  deriving DecidableEq, Repr

/-- A channel of a frame column: `ch = 0` green, `ch = 1` red (20_memory.md R63). -/
inductive Channel where
  | green
  | red
  deriving DecidableEq, Repr

/-- The agents that take steps (00_scope.md R11). -/
inductive Agent where
  | host
  | enc
  | tmr
  | spi
  | irq
  | loop
  deriving DecidableEq, Repr

/-- Why a step word is refused (60_exceptions.md R201). -/
inductive RefuseReason where
  | reservedOpc
  | reservedField
  | operandRange
  | wrongStrategy
  | hostConsumed
  | alreadyRunning
  deriving DecidableEq, Repr

/-- The configuration record: the OPEN parameters of 00_scope.md R5. -/
structure Config where
  /-- `STRAT` -/
  strat : Strategy
  /-- `B`, rows of the packed buffer -/
  b : Nat
  /-- `ROW_PERIOD`, grayscale-clock ticks between Row-Advance requests -/
  rowPeriod : Nat
  /-- `TOP`, the busy-loop PWM counter's reload value -/
  top : Nat
  /-- `IRQ_ORDER` -/
  irqOrder : IrqOrder
  deriving DecidableEq, Repr

/-! The fixed parameters of 00_scope.md R5 and the derived constants of R6. -/

/-- Rows of the logical frame. -/
@[reducible, simp] def Config.R : Nat := 8
/-- Lines of the row-select bus. -/
@[reducible, simp] def Config.NSEL : Nat := 8
/-- Columns per row. -/
@[reducible, simp] def Config.C : Nat := 8
/-- Bytes per packed row, `3*C`. -/
@[reducible, simp] def Config.L : Nat := 3 * Config.C
/-- Byte offset of the red channel within a packed row, `3*(C/2)`. -/
@[reducible, simp] def Config.HALF : Nat := 3 * (Config.C / 2)
/-- Bits shifted per row, `8*L`. -/
@[reducible, simp] def Config.NBITS : Nat := 8 * Config.L
/-- Pairs per channel, `C/2`. -/
@[reducible, simp] def Config.NPAIR : Nat := Config.C / 2
/-- Row index after reset. -/
@[reducible, simp] def Config.ROW_INIT : Nat := 4
/-- Frame Source scale bounds. -/
@[reducible, simp] def Config.SCALE_LO : Nat := 2
/-- Frame Source scale bounds. -/
@[reducible, simp] def Config.SCALE_HI : Nat := 510
/-- Frame Source start scale. -/
@[reducible, simp] def Config.SCALE_INIT : Nat := 1
/-- Elements of the frame memory, `R*C*2` (20_memory.md R60). -/
@[reducible, simp] def Config.FRAME_SIZE : Nat := Config.R * Config.C * 2

/-- Bytes of the packed buffer, `B*L` (20_memory.md R60). -/
@[reducible, simp] def Config.pbufSize (c : Config) : Nat := c.b * Config.L

/-- A configuration is well formed (00_scope.md R5); the conditions on the fixed parameters stand
beside those on the open ones, as the rule lists them. -/
def Config.wf (c : Config) : Bool :=
  decide (Config.C % 2 = 0 ∧ 2 ≤ Config.C ∧ Config.C ≤ 16 ∧
    1 ≤ c.b ∧ c.b ≤ Config.R ∧ Config.R ≤ 8 ∧
    1 ≤ c.rowPeriod ∧ 1 ≤ c.top ∧ Config.ROW_INIT < Config.R)

/-- The nominal values of 00_scope.md R5. The spec leaves `STRAT` open per build.
DESIGN CHOICE: the interrupt-driven build (log 7); unsafe for a claim that leans on this build. -/
def Config.nominal : Config :=
  { strat := .isr, b := Config.R, rowPeriod := 4096, top := 4096, irqOrder := .any }

/-! The free values. None has a body, so no proof can know one. -/

/-- The draw a byte of `PBUF` holds from reset until it is written (20_memory.md R66); log 9. -/
opaque Config.pbufDraw : Nat → Byte

/-- The draw an element of `FRAME` holds from reset until it is written (20_memory.md R66); log 9. -/
opaque Config.frameDraw : Nat → Elem

/-- The word the hardware's event timing offers next when no schedule was placed
(30_encoding.md R80: any enabled step of any agent may be next); log 1. -/
opaque Config.eventWord : Nat → Word

end Sys2Proof
end

