-- ==== Sys2Proof/Syntax.lean ====
section
/-! DEFINITION. The step words as syntax: one constructor per row of spec/opcode_table.json
(30_encoding.md R86). Operands are the unsigned fields of 30_encoding.md R83 to R85. -/

namespace Sys2Proof

/-- A step of one agent. -/
inductive Instr where
  /-- `WRPIX row, col, ch, value`: the host writes one frame element (40_host.md R102). -/
  | wrpix (row : BitVec 3) (col : BitVec 4) (ch : Channel) (value : Elem)
  /-- `ENCFRM scale, orient`: the host requests an encoding pass (41_packer.md R126). -/
  | encfrm (scale : Scale) (orient : Bool)
  /-- `SCSTEP`: one Frame Source animation step (40_host.md R103). -/
  | scstep
  /-- `START`: start the scan engine (40_host.md R104). -/
  | start
  /-- `TICK`: one tick of the grayscale clock and row timer (42_scan_isr.md R143). -/
  | tick
  /-- `RADV`: take the Row-Advance context (42_scan_isr.md R149). -/
  | radv
  /-- `BCMP`: take the Byte-Complete context (42_scan_isr.md R154). -/
  | bcmp
  /-- `SHBIT`: the serial shifter shifts one bit (42_scan_isr.md R147). -/
  | shbit
  /-- `ENCSTEP`: the packer writes the next byte of its pass (41_packer.md R127). -/
  | encstep
  /-- `BLSTEP`: one iteration of the busy loop (43_scan_busyloop.md R170). -/
  | blstep
  deriving DecidableEq, Repr

end Sys2Proof
end

