-- ==== Sys2Proof/WellFormed.lean ====
section
/-! DEFINITION. The operand checks of 30_encoding.md R88 (c). The row check never fails while `R = 8`
fills the 3-bit field; it stands because the rule lists it. -/

namespace Sys2Proof

/-- `WRPIX` needs `ROW < R` and `COL < C`; no other word has an operand check. -/
def Instr.wf : Instr → Bool
  | .wrpix row col _ _ => decide (row.toNat < Config.R ∧ col.toNat < Config.C)
  | .encfrm _ _ => true
  | .scstep => true
  | .start => true
  | .tick => true
  | .radv => true
  | .bcmp => true
  | .shbit => true
  | .encstep => true
  | .blstep => true

end Sys2Proof
end

