-- ==== Sys2Proof/Decode.lean ====
section
/-! DEFINITION. The step-word decoder and encoder (30_encoding.md R81 to R89), the opcode map of R86 as
data, and its "agent" and "builds" columns. -/

namespace Sys2Proof

/-! ## Fields -/

/-- `OPC = w[31:28]` (R81). -/
def opcField (w : Word) : BitVec 4 := w.extractLsb 31 28

/-- Format P's fields (R83, R85). -/
def rowField (w : Word) : BitVec 3 := w.extractLsb 26 24
def colField (w : Word) : BitVec 4 := w.extractLsb 23 20
def valueField (w : Word) : BitVec 16 := w.extractLsb 15 0

/-- Bit 27: `CH` of format P, `ORIENT` of format E. -/
def bit27 (w : Word) : Bool := w.getLsbD 27

/-- The reserved fields of formats N, P and E (R82, R83, R84). -/
def reservedN (w : Word) : BitVec 28 := w.extractLsb 27 0
def reservedP (w : Word) : BitVec 4 := w.extractLsb 19 16
def reservedE (w : Word) : BitVec 11 := w.extractLsb 26 16

/-- `CH` as a channel: 0 green, 1 red (R83). -/
def channelOf (b : Bool) : Channel := if b then .red else .green
def channelBit (ch : Channel) : Bool :=
  match ch with
  | .green => false
  | .red => true

/-! ## Decoder -/

/-- A format N word (R82). -/
def decodeN (i : Instr) (w : Word) : Except RefuseReason Instr :=
  if reservedN w = 0#28 then .ok i else .error .reservedField

/-- A format P word (R83), then the operand check of R88 (c). -/
def decodeP (w : Word) : Except RefuseReason Instr :=
  if reservedP w = 0#4 then
    let i := Instr.wrpix (rowField w) (colField w) (channelOf (bit27 w)) (valueField w)
    if i.wf then .ok i else .error .operandRange
  else .error .reservedField

/-- A format E word (R84). -/
def decodeE (w : Word) : Except RefuseReason Instr :=
  if reservedE w = 0#11 then .ok (.encfrm (valueField w) (bit27 w)) else .error .reservedField

/-- The instruction a word names, or why the word alone is refused (R86 to R88 (a) to (c)). Whether the
build has the word is checked by the instruction's meaning, since the build is in the state. -/
def decode (w : Word) : Except RefuseReason Instr :=
  match (opcField w).toNat with
  | 0x1 => decodeP w
  | 0x2 => decodeE w
  | 0x3 => decodeN .scstep w
  | 0x4 => decodeN .start w
  | 0x8 => decodeN .tick w
  | 0x9 => decodeN .radv w
  | 0xA => decodeN .bcmp w
  | 0xB => decodeN .shbit w
  | 0xC => decodeN .encstep w
  | 0xD => decodeN .blstep w
  | _ => .error .reservedOpc

/-! ## Encoder -/

/-- `OPC` in bits 31:28 and every reserved bit 0 (R81, R82): a format N word. -/
def encodeN (opc : BitVec 4) : Word := opc.setWidth 32 <<< 28

/-- A bit in place 27. -/
def placeBit27 (b : Bool) : Word := (BitVec.ofBool b).setWidth 32 <<< 27

/-- The word of an instruction, from the formats of R82 to R84 and the opcodes of R86. -/
def encode : Instr → Word
  | .wrpix row col ch value =>
    encodeN 0x1#4 ||| placeBit27 (channelBit ch) ||| row.setWidth 32 <<< 24 |||
      col.setWidth 32 <<< 20 ||| value.setWidth 32
  | .encfrm scale orient => encodeN 0x2#4 ||| placeBit27 orient ||| scale.setWidth 32
  | .scstep => encodeN 0x3#4
  | .start => encodeN 0x4#4
  | .tick => encodeN 0x8#4
  | .radv => encodeN 0x9#4
  | .bcmp => encodeN 0xA#4
  | .shbit => encodeN 0xB#4
  | .encstep => encodeN 0xC#4
  | .blstep => encodeN 0xD#4

/-! ## The opcode map of R86 -/

/-- One row of the match and mask table. -/
structure OpRow where
  mnemonic : String
  pattern : Word
  mask : Word
  deriving DecidableEq, Repr

/-- A word names a row when `w AND mask = match`. -/
def OpRow.hits (r : OpRow) (w : Word) : Bool := decide (w &&& r.mask = r.pattern)

/-- The row of an instruction. -/
def Instr.opRow : Instr → OpRow
  | .wrpix _ _ _ _ => ⟨"WRPIX", 0x10000000#32, 0xF00F0000#32⟩
  | .encfrm _ _ => ⟨"ENCFRM", 0x20000000#32, 0xF7FF0000#32⟩
  | .scstep => ⟨"SCSTEP", 0x30000000#32, 0xFFFFFFFF#32⟩
  | .start => ⟨"START", 0x40000000#32, 0xFFFFFFFF#32⟩
  | .tick => ⟨"TICK", 0x80000000#32, 0xFFFFFFFF#32⟩
  | .radv => ⟨"RADV", 0x90000000#32, 0xFFFFFFFF#32⟩
  | .bcmp => ⟨"BCMP", 0xA0000000#32, 0xFFFFFFFF#32⟩
  | .shbit => ⟨"SHBIT", 0xB0000000#32, 0xFFFFFFFF#32⟩
  | .encstep => ⟨"ENCSTEP", 0xC0000000#32, 0xFFFFFFFF#32⟩
  | .blstep => ⟨"BLSTEP", 0xD0000000#32, 0xFFFFFFFF#32⟩

/-- The ten rows, in the order of R86. -/
def opcodeTable : List OpRow :=
  [(Instr.wrpix 0#3 0#4 .green 0#16).opRow, (Instr.encfrm 0#16 false).opRow, Instr.scstep.opRow,
   Instr.start.opRow, Instr.tick.opRow, Instr.radv.opRow, Instr.bcmp.opRow, Instr.shbit.opRow,
   Instr.encstep.opRow, Instr.blstep.opRow]

/-- The rows a word matches. -/
def rowsOf (w : Word) : List OpRow := opcodeTable.filter (fun r => r.hits w)

/-- The "agent" column of R86. -/
def Instr.agent : Instr → Agent
  | .wrpix _ _ _ _ => .host
  | .encfrm _ _ => .host
  | .scstep => .host
  | .start => .host
  | .tick => .tmr
  | .radv => .irq
  | .bcmp => .irq
  | .shbit => .spi
  | .encstep => .enc
  | .blstep => .loop

/-- The "builds" column of R86: whether a build of this strategy has the word (R88 (d)). -/
def Instr.inBuild (i : Instr) (strat : Strategy) : Bool :=
  match i with
  | .wrpix _ _ _ _ => true
  | .encfrm _ _ => true
  | .scstep => decide (strat = .isr)
  | .start => true
  | .tick => decide (strat = .isr)
  | .radv => decide (strat = .isr)
  | .bcmp => decide (strat = .isr)
  | .shbit => decide (strat = .isr)
  | .encstep => true
  | .blstep => decide (strat = .busy)

/-- The code of a refusal reason (60_exceptions.md R201). -/
def refuseCode : RefuseReason → Nat
  | .reservedOpc => 1
  | .reservedField => 2
  | .operandRange => 3
  | .wrongStrategy => 4
  | .hostConsumed => 5
  | .alreadyRunning => 6

/-! ## The host's view of the decoder -/

/-- The step word whose low `nbits` bits are those of `w` and whose other bits are 0. A step word is one
32-bit word and is not stored in bytes (R81, R89), so its bits are the table's bits as they stand. -/
def tableWord (nbits w : Nat) : Word := BitVec.ofNat 32 (w % 2 ^ nbits)

/-- The instruction the decoder reads from a word given as the opcode table numbers its bits. -/
def decodeTableWord (nbits w : Nat) : Option Instr :=
  match decode (tableWord nbits w) with
  | .ok i => some i
  | .error _ => none

end Sys2Proof
end

