-- ==== Sys2Proof/Machine/State.lean ====
section
/-! DEFINITION. The state of the block and its host environment (10_state.md, 20_memory.md), the faults
and refusals, and the state after reset. Fields are grouped as 10_state.md groups them. -/

namespace Sys2Proof.Machine

/-- The fault reasons of 60_exceptions.md R200, each with the value it records. A meaning that raises one
answers a next state in which `FAULTS` holds it; `step` answers it as the machine's stop when a faulted
state is asked for a further step (log 4). -/
inductive Fault where
  /-- Code 1, raised by `RADV` and `BCMP` through `TxWrite`: a transmit-register write while a byte is
  still shifting, with the byte that was to be written. Safe: the machine stops after it. -/
  | txCollision (byte : Byte)
  /-- Code 2, raised by `MemRead` and `MemWrite`: an address outside `[0, B*L-1]`, with the address.
  Safe: the machine stops after it. -/
  | bufRange (addr : Int)
  deriving DecidableEq, Repr

/-- What `step` has no meaning for. A refused step WORD is not one of these: its effect is the mark
`REFUSED` (30_encoding.md R88), a next state. -/
inductive Refusal where
  /-- Raised by no arm: every instruction has its meaning. Safe. -/
  | notModelled (mnemonic : String)
  /-- Raised by `step` when the configuration record is ill formed (00_scope.md R5, I39). Safe. -/
  | illFormedConfig
  deriving DecidableEq, Repr

/-- How a step ended: the four outcomes of 00_scope.md R9, with the reason reported (R200, R201). -/
inductive StepOutcome where
  | ok
  | hold
  | fault (r : Fault)
  | refuse (r : RefuseReason)
  deriving DecidableEq, Repr

/-- The one-bit output lines (00_scope.md R10). -/
inductive Line where
  | sin
  | sclk
  | xlat
  | blank
  | gsclk
  deriving DecidableEq, Repr

/-- A line event `(line, value)` of the trace (00_scope.md R10, 10_state.md R37). -/
inductive LineEvent where
  | bit (line : Line) (v : Bool)
  | rowsel (v : BitVec 8)
  deriving DecidableEq, Repr

/-- The Frame Source's step direction, `+1` or `-1` (10_state.md R34). -/
inductive Direction where
  | up
  | down
  deriving DecidableEq, Repr

/-- ScanState (10_state.md R22 to R25): `ROW`, `CNT`, `BITIDX`, `PWM`. -/
structure ScanState where
  row : BitVec 3
  cnt : BitVec 16
  bitIdx : Nat
  pwm : Nat
  deriving DecidableEq, Repr

/-- The serial shifter (10_state.md R26 to R28): `TX_BUSY`, `SHREG`, `SHCNT`. -/
structure Shifter where
  txBusy : Bool
  shreg : Byte
  shcnt : BitVec 3
  deriving DecidableEq, Repr

/-- Interrupt state (10_state.md R30, R31): `RA_PEND`, `BC_PEND`, `RA_LOST`, `BC_LOST`. -/
structure IrqState where
  raPend : Bool
  bcPend : Bool
  raLost : Bool
  bcLost : Bool
  deriving DecidableEq, Repr

/-- Encoder state (10_state.md R32, R33): `ENC_BUSY`, `ENC_POS`, `ENC_SCALE`, `ENC_ORIENT`. -/
structure EncState where
  busy : Bool
  pos : Nat
  scale : Scale
  orient : Bool
  deriving DecidableEq, Repr

/-- Host ScaleState (10_state.md R34): `SCALE`, `DIR`, `ORIENT`. -/
structure ScaleState where
  scale : Scale
  dir : Direction
  orient : Bool
  deriving DecidableEq, Repr

/-- Line state (10_state.md R36). -/
structure Lines where
  sin : Bool
  sclk : Bool
  xlat : Bool
  blank : Bool
  gsclk : Bool
  rowsel : BitVec 8
  deriving DecidableEq, Repr

/-- The set of recorded fault reasons, each with its recorded value (10_state.md R38, 60_exceptions.md
R200). One place per reason, so that equal sets are equal data. -/
structure FaultSet where
  txCollision : Option Byte
  bufRange : Option Int
  deriving DecidableEq, Repr

/-- The whole state. `outcome`, `sched` and `events` are the model's own (log 1, 6); every other field is
the spec's. -/
structure State where
  /-- The build's configuration record, read-only (00_scope.md R5; `CTRL.STRAT` of 10_state.md R35). -/
  cfg : Config
  /-- `CTRL.RUN` (10_state.md R35). -/
  run : Bool
  scan : ScanState
  shifter : Shifter
  /-- `TCNT` (10_state.md R29). -/
  tcnt : Nat
  irq : IrqState
  enc : EncState
  host : ScaleState
  lines : Lines
  /-- `TRACE`, oldest event first (10_state.md R37). -/
  trace : List LineEvent
  /-- `FAULTS` (10_state.md R38). -/
  faults : FaultSet
  /-- `REFUSED` (10_state.md R39). -/
  refused : Bool
  /-- The bytes of `PBUF` written since reset, by rising address (20_memory.md R60, R66; log 9). -/
  pbuf : List Host.Cell
  /-- The elements of `FRAME` written since reset, by rising index (20_memory.md R60, R63, R66; log 9). -/
  frame : List (Nat × Elem)
  /-- How the last step ended (log 6). -/
  outcome : StepOutcome
  /-- The step words placed for the machine to take, oldest first (30_encoding.md R80; log 1). -/
  sched : List Word
  /-- How many words the environment has chosen (log 1). -/
  events : Nat
  deriving DecidableEq, Repr

/-- No fault recorded. -/
def FaultSet.empty : FaultSet := { txCollision := none, bufRange := none }

/-- The reset line levels (10_state.md R36). -/
def Lines.reset : Lines :=
  { sin := false, sclk := false, xlat := false, blank := true, gsclk := false, rowsel := 0xFF#8 }

/-- The state after reset in the build `c` (10_state.md R40, 70_reset_and_hazards.md R240, R241).
DESIGN CHOICE: `SHREG`, which the spec leaves unspecified, is 0 (log 10, unsafe); `outcome`, `sched` and
`events` are the model's (log 1, 6, safe). Nothing of `PBUF` or `FRAME` is listed (log 9). -/
def State.resetWith (c : Config) : State :=
  { cfg := c
    run := false
    scan := { row := 4#3, cnt := -1#16, bitIdx := 0, pwm := c.top }
    shifter := { txBusy := false, shreg := 0#8, shcnt := 0#3 }
    tcnt := 0
    irq := { raPend := false, bcPend := false, raLost := false, bcLost := false }
    enc := { busy := false, pos := 0, scale := 0#16, orient := false }
    host := { scale := 1#16, dir := .up, orient := false }
    lines := Lines.reset
    trace := []
    faults := FaultSet.empty
    refused := false
    pbuf := []
    frame := []
    outcome := .ok
    sched := []
    events := 0 }

/-- The state after reset in the nominal build (log 7). -/
def State.reset : State := State.resetWith Config.nominal

end Sys2Proof.Machine
end

