-- ==== Sys2Proof/Machine/Flags.lean ====
section
/-! DEFINITION. Status and flag computations: the observation registers `CTRL` and `STATUS`
(10_state.md R35), the interrupt requests with their merging (60_exceptions.md R203), and the test of the
byte counter's sign (10_state.md R23). -/

namespace Sys2Proof.Machine

/-- Whether some fault is recorded: `STATUS.FAULTED` (10_state.md R35, R38). -/
def faulted (s : State) : Bool := s.faults.txCollision.isSome || s.faults.bufRange.isSome

/-- `CTRL`: bit 0 `RUN`, bit 1 `STRAT` (0 = `ISR`, 1 = `BUSY`), bits 7:2 read as 0. -/
def ctrl (s : State) : BitVec 8 :=
  0#6 ++ BitVec.ofBool (decide (s.cfg.strat = .busy)) ++ BitVec.ofBool s.run

/-- `STATUS`: bits 0 to 7 are `TX_BUSY`, `RA_PEND`, `BC_PEND`, `ENC_BUSY`, `RA_LOST`, `BC_LOST`,
`FAULTED`, `REFUSED`. -/
def status (s : State) : BitVec 8 :=
  BitVec.ofBool s.refused ++ BitVec.ofBool (faulted s) ++ BitVec.ofBool s.irq.bcLost ++
    BitVec.ofBool s.irq.raLost ++ BitVec.ofBool s.enc.busy ++ BitVec.ofBool s.irq.bcPend ++
    BitVec.ofBool s.irq.raPend ++ BitVec.ofBool s.shifter.txBusy

/-- A Row-Advance request: a request while one is pending merges and marks `RA_LOST` (R203). -/
def requestRa (q : IrqState) : IrqState :=
  { q with raPend := true, raLost := q.raLost || q.raPend }

/-- A Byte-Complete request: a request while one is pending merges and marks `BC_LOST` (R203). -/
def requestBc (q : IrqState) : IrqState :=
  { q with bcPend := true, bcLost := q.bcLost || q.bcPend }

/-- `CNT < 0` in two's complement (10_state.md R23). -/
def cntNegative (c : BitVec 16) : Bool := decide (c.toInt < 0)

end Sys2Proof.Machine
end

