-- ==== Sys2Proof/Machine/Memory.lean ====
section
/-! DEFINITION. The canonical form of the two memories: cells listed by strictly rising address, one per
address written since reset (20_memory.md R60, R66). At this layer an unlisted address holds no value
(`none`), so no entry can equal it; what the machine reads there is decided in Ops.lean (log 9). -/

namespace Sys2Proof.Machine

/-- The value written at `a`, if one was. -/
def cellAt {α : Type} (m : List (Nat × α)) (a : Nat) : Option α :=
  match m with
  | [] => none
  | (k, v) :: rest => if k = a then some v else cellAt rest a

/-- The memory with `v` written at `a`, in canonical form. -/
def putCell {α : Type} (m : List (Nat × α)) (a : Nat) (v : α) : List (Nat × α) :=
  match m with
  | [] => [(a, v)]
  | (k, w) :: rest =>
    if a < k then (a, v) :: (k, w) :: rest
    else if a = k then (a, v) :: rest
    else (k, w) :: putCell rest a v

/-- Addresses strictly rising from `lo` on and all below `size`. -/
def risingFrom {α : Type} (lo size : Nat) (m : List (Nat × α)) : Bool :=
  match m with
  | [] => true
  | (k, _) :: rest => decide (lo ≤ k ∧ k < size) && risingFrom (k + 1) size rest

/-- The canonical form of a memory of `size` addresses. -/
def Memory.wf {α : Type} (size : Nat) (m : List (Nat × α)) : Bool := risingFrom 0 size m

end Sys2Proof.Machine
end

