-- ==== Sys2Proof/Machine/Ops.lean ====
section
/-! DEFINITION. The named operations every meaning is written over: the four outcomes of a step
(00_scope.md R9), line writes (R10), the memory accesses (20_memory.md R61 to R63), recording a fault
(60_exceptions.md R215) and the transmit-register write (42_scan_isr.md R146). -/

namespace Sys2Proof.Machine

/-! ## Outcomes -/

/-- The outcome of a step as its rule's pseudocode gives it (00_scope.md R9). -/
inductive Attempt where
  /-- The state after. -/
  | ok (t : State)
  /-- Not enabled now. -/
  | hold
  /-- A fault was raised: the reason, and the state with the effects made before it and the reason
  recorded (60_exceptions.md R215). -/
  | fault (r : Fault) (t : State)
  /-- The word names no step of this configuration in this state. -/
  | refuse (r : RefuseReason)
  deriving DecidableEq, Repr

/-- Go on with the rest of the pseudocode unless the step has already ended. -/
def andThen (a : Attempt) (k : State → Attempt) : Attempt :=
  match a with
  | .ok t => k t
  | .hold => .hold
  | .fault r t => .fault r t
  | .refuse r => .refuse r

/-- The state a step from `s` leaves: a hold leaves everything (R9), a refusal sets only `REFUSED`
(30_encoding.md R88), a fault keeps the effects made before it (60_exceptions.md R215). The outcome is
reported in the model's own field `outcome` (log 2, 3, 4, 6). -/
def settled (s : State) (a : Attempt) : State :=
  match a with
  | .ok t => { t with outcome := .ok }
  | .hold => { s with outcome := .hold }
  | .fault r t => { t with outcome := .fault r }
  | .refuse r => { s with refused := true, outcome := .refuse r }

/-- All four outcomes of R9 are next states of the machine. -/
def settle (s : State) (a : Attempt) : Host.Outcome State Fault Refusal := .next (settled s a)

/-! ## Lines and trace -/

/-- A line set to a value. -/
def setLine (x : Lines) (l : Line) (v : Bool) : Lines :=
  match l with
  | .sin => { x with sin := v }
  | .sclk => { x with sclk := v }
  | .xlat => { x with xlat := v }
  | .blank => { x with blank := v }
  | .gsclk => { x with gsclk := v }

/-- `Emit(line, v)` for a one-bit line (00_scope.md R10). -/
def emit (l : Line) (v : Bool) (s : State) : State :=
  { s with lines := setLine s.lines l v, trace := s.trace ++ [.bit l v] }

/-- `Pulse(line)` (00_scope.md R10). -/
def pulse (l : Line) (s : State) : State := emit l false (emit l true s)

/-- `NOT_NSEL(1 << r)`: line `r` low, every other line high (00_scope.md R10). -/
def selectMask (r : BitVec 3) : BitVec 8 := ~~~(1#8 <<< r.toNat)

/-- `SetRowSel(r)` (00_scope.md R10). -/
def setRowSel (r : BitVec 3) (s : State) : State :=
  { s with lines := { s.lines with rowsel := selectMask r },
           trace := s.trace ++ [.rowsel (selectMask r)] }

/-! ## Faults: this block's only exception (60_exceptions.md R200, R207, R215)

An interrupt handler's entry saves nothing and its return restores nothing (R207, R209); what a fault
"saves" is its reason and its recorded value. -/

/-- A reason added to the set; a reason already there is never removed (10_state.md R38), and keeps the
value it recorded first (log 5). -/
def addFault (f : FaultSet) (r : Fault) : FaultSet :=
  match r with
  | .txCollision byte => { f with txCollision := some (f.txCollision.getD byte) }
  | .bufRange addr => { f with bufRange := some (f.bufRange.getD addr) }

/-- `raise Fault(reason)`: record the reason and end the step; effects already made remain (R215). -/
def raise (r : Fault) (s : State) : Attempt := .fault r { s with faults := addFault s.faults r }

/-- The recorded reason, the lowest code first: what stops a further step (log 4). -/
def firstFault (f : FaultSet) : Option Fault :=
  match f.txCollision, f.bufRange with
  | some byte, _ => some (.txCollision byte)
  | none, some addr => some (.bufRange addr)
  | none, none => none

/-! ## Memory accesses -/

/-- An address of `PBUF` is in range (20_memory.md R61). -/
def inPbuf (s : State) (addr : Int) : Bool := decide (0 ≤ addr ∧ addr < (s.cfg.pbufSize : Int))

/-- The byte `PBUF` holds at `a`: the last one written, else the reset draw (20_memory.md R66, R72). -/
def pbufByte (m : List Host.Cell) (a : Nat) : Byte := (cellAt m a).getD (Config.pbufDraw a)

/-- `MemRead(addr, 1)` (20_memory.md R61); no value outside the buffer. -/
def memRead (s : State) (addr : Int) : Option Byte :=
  if inPbuf s addr then some (pbufByte s.pbuf addr.toNat) else none

/-- `MemWrite(addr, 1, v)` (20_memory.md R62). -/
def memWrite (addr : Int) (v : Byte) (s : State) : Attempt :=
  if inPbuf s addr then .ok { s with pbuf := putCell s.pbuf addr.toNat v }
  else raise (.bufRange addr) s

/-- The channel's number (20_memory.md R63). -/
def channelNumber (ch : Channel) : Nat :=
  match ch with
  | .green => 0
  | .red => 1

/-- The element index `(r*C + c)*2 + ch` (20_memory.md R63). -/
def frameIndex (r c : Nat) (ch : Channel) : Nat := (r * Config.C + c) * 2 + channelNumber ch

/-- The element `FRAME` holds at an index: the last one written, else the reset draw
(20_memory.md R66, R72). -/
def frameElem (m : List (Nat × Elem)) (k : Nat) : Elem := (cellAt m k).getD (Config.frameDraw k)

/-- `FrameRead(r, c, ch)` (20_memory.md R63). -/
def frameRead (m : List (Nat × Elem)) (r c : Nat) (ch : Channel) : Elem :=
  frameElem m (frameIndex r c ch)

/-- `FrameWrite(r, c, ch, v)` (20_memory.md R63). -/
def frameWrite (r c : Nat) (ch : Channel) (v : Elem) (s : State) : State :=
  { s with frame := putCell s.frame (frameIndex r c ch) v }

/-! ## The serial transmit register -/

/-- `TxWrite(v)` (42_scan_isr.md R146). -/
def txWrite (v : Byte) (s : State) : Attempt :=
  if s.shifter.txBusy then raise (.txCollision v) s
  else .ok { s with shifter := { txBusy := true, shreg := v, shcnt := 0#3 } }

/-- `TxWrite(MemRead(addr, 1))`, as both handlers use it (42_scan_isr.md R150, R155). -/
def txLoad (addr : Int) (s : State) : Attempt :=
  match memRead s addr with
  | some v => txWrite v s
  | none => raise (.bufRange addr) s

end Sys2Proof.Machine
end

