-- ==== Sys2Proof/Machine/Operands.lean ====
section
/-! DEFINITION. Operand forms: the addresses the scan engine and the packer form (20_memory.md R64, R65)
and the packer's pure functions (41_packer.md R120 to R123). -/

namespace Sys2Proof.Machine

/-- `rowbase(r) = (r mod B) * L` (20_memory.md R64). -/
def rowBase (c : Config) (r : BitVec 3) : Nat := (r.toNat % c.b) * Config.L

/-- `PACK12(pv1, pv2)` (41_packer.md R120). -/
def pack12 (pv1 pv2 : Code) : Byte × Byte × Byte :=
  (pv1.extractLsb 11 4, pv1.extractLsb 3 0 ++ pv2.extractLsb 11 8, pv2.extractLsb 7 0)

/-- Byte `j` of a three-byte group. -/
def groupByte (g : Byte × Byte × Byte) (j : Nat) : Byte :=
  match j with
  | 0 => g.1
  | 1 => g.2.1
  | _ => g.2.2

/-- `code(v, s) = (v * s) mod 4096`, from the exact product (41_packer.md R121, R131). -/
def code (v : Elem) (s : Scale) : Code := BitVec.ofNat 12 (v.toNat * s.toNat)

/-- The two columns of pair `p` under orientation `o` (41_packer.md R122). -/
def columns (p : Nat) (o : Bool) : Nat × Nat :=
  if o then (Config.C - 1 - 2 * p, Config.C - 2 - 2 * p) else (2 * p, 2 * p + 1)

/-- The channel of a byte offset within a packed row (20_memory.md R65). -/
def offsetChannel (off : Nat) : Channel := if off / Config.HALF = 0 then .green else .red

/-- The pair of a byte offset within a packed row (20_memory.md R65). -/
def offsetPair (off : Nat) : Nat := off % Config.HALF / 3

/-- `PackedByte(b, off, s, o)` on a frame (41_packer.md R123). -/
def packedByte (f : List (Nat × Elem)) (b off : Nat) (s : Scale) (o : Bool) : Byte :=
  let ch := offsetChannel off
  let cols := columns (offsetPair off) o
  groupByte (pack12 (code (frameRead f b cols.1 ch) s) (code (frameRead f b cols.2 ch) s)) (off % 3)

end Sys2Proof.Machine
end

