-- ==== Sys2Proof/Machine/HostWords.lean ====
section
/-! DEFINITION. The meanings of the host's words: `WRPIX`, `ENCFRM`, `SCSTEP`, `START`
(40_host.md R100 to R104, 41_packer.md R126). Each meaning checks the build first, which is decided with
the word (30_encoding.md R88 (d), 60_exceptions.md R206), then the conditions in its pseudocode's order. -/

namespace Sys2Proof.Machine

/-- A word of the other build is refused (30_encoding.md R88 (d)); otherwise its own rule decides. -/
def ifBuilt (i : Instr) (s : State) (k : State → Attempt) : Attempt :=
  if i.inBuild s.cfg.strat then k s else .refuse .wrongStrategy

/-- Every host word holds while a pass is in progress (40_host.md R100). -/
def ifIdle (s : State) (k : State → Attempt) : Attempt := if s.enc.busy then .hold else k s

/-- In a `BUSY` build the host has no step once the engine runs (40_host.md R101). -/
def ifHostFree (s : State) (k : State → Attempt) : Attempt :=
  if s.cfg.strat = .busy ∧ s.run = true then .refuse .hostConsumed else k s

/-- `EncodeRequest(s, o)` (41_packer.md R126). -/
def encodeRequest (scale : Scale) (orient : Bool) (s : State) : State :=
  { s with enc := { busy := true, pos := 0, scale := scale, orient := orient } }

/-- The Frame Source's step on the ScaleState: add the direction modulo `2^16`, then the two bound
comparisons in order (40_host.md R103). -/
def scaleStep (h : ScaleState) : ScaleState :=
  let moved : Scale :=
    match h.dir with
    | .up => h.scale + 1#16
    | .down => h.scale - 1#16
  let h1 : ScaleState := { h with scale := moved }
  let h2 : ScaleState := if Config.SCALE_HI ≤ moved.toNat then { h1 with dir := .down } else h1
  if moved.toNat ≤ Config.SCALE_LO then { h2 with dir := .up, orient := !h2.orient } else h2

/-- `WRPIX row, col, ch, value` (40_host.md R102). -/
def attemptWrpix (row : BitVec 3) (col : BitVec 4) (ch : Channel) (value : Elem) (s : State) : Attempt :=
  if (Instr.wrpix row col ch value).wf then
    ifBuilt (.wrpix row col ch value) s fun s =>
    ifIdle s fun s =>
    ifHostFree s fun s =>
    .ok (frameWrite row.toNat col.toNat ch value s)
  else .refuse .operandRange

/-- `ENCFRM scale, orient` (41_packer.md R126). -/
def attemptEncfrm (scale : Scale) (orient : Bool) (s : State) : Attempt :=
  ifBuilt (.encfrm scale orient) s fun s =>
  ifIdle s fun s =>
  ifHostFree s fun s =>
  .ok (encodeRequest scale orient s)

/-- `SCSTEP` (40_host.md R103). -/
def attemptScstep (s : State) : Attempt :=
  ifBuilt .scstep s fun s =>
  ifIdle s fun s =>
  let h := scaleStep s.host
  .ok (encodeRequest h.scale h.orient { s with host := h })

/-- `START` (40_host.md R104). -/
def attemptStart (s : State) : Attempt :=
  ifBuilt .start s fun s =>
  ifIdle s fun s =>
  ifHostFree s fun s =>
  if s.run then .refuse .alreadyRunning else .ok { s with run := true }

def execWrpix (row : BitVec 3) (col : BitVec 4) (ch : Channel) (value : Elem) (s : State) :
    Host.Outcome State Fault Refusal := settle s (attemptWrpix row col ch value s)

def execEncfrm (scale : Scale) (orient : Bool) (s : State) : Host.Outcome State Fault Refusal :=
  settle s (attemptEncfrm scale orient s)

def execScstep (s : State) : Host.Outcome State Fault Refusal := settle s (attemptScstep s)

def execStart (s : State) : Host.Outcome State Fault Refusal := settle s (attemptStart s)

end Sys2Proof.Machine
end

