-- ==== Sys2Proof/Machine/Packer.lean ====
section
/-! DEFINITION. The packer's word `ENCSTEP` (41_packer.md R127). -/

namespace Sys2Proof.Machine

/-- The byte the pass in progress writes next, and where (41_packer.md R127, R123). -/
def nextPacked (s : State) : Byte :=
  packedByte s.frame (s.enc.pos / Config.L) (s.enc.pos % Config.L) s.enc.scale s.enc.orient

/-- `ENC_POS <- a + 1`, and the pass ends after its last byte (41_packer.md R127). -/
def advancePass (s : State) : State :=
  { s with enc := { s.enc with pos := s.enc.pos + 1,
                               busy := s.enc.busy && decide (s.enc.pos + 1 ≠ s.cfg.pbufSize) } }

/-- `ENCSTEP` (41_packer.md R127). -/
def attemptEncstep (s : State) : Attempt :=
  ifBuilt .encstep s fun s =>
  if s.enc.busy then
    andThen (memWrite (s.enc.pos : Int) (nextPacked s) s) fun s => .ok (advancePass s)
  else .hold

def execEncstep (s : State) : Host.Outcome State Fault Refusal := settle s (attemptEncstep s)

end Sys2Proof.Machine
end

