-- ==== Sys2Proof/Machine/ScanBusy.lean ====
section
/-! DEFINITION. The busy-loop shift controller: `BLSTEP` (43_scan_busyloop.md R170 to R172). -/

namespace Sys2Proof.Machine

/-- The address of the byte that holds the next bit of the row (43_scan_busyloop.md R171). -/
def bitAddr (s : State) : Int := (rowBase s.cfg s.scan.row : Int) + ((s.scan.bitIdx / 8 : Nat) : Int)

/-- `ShiftBit()` (43_scan_busyloop.md R171). -/
def shiftBit (s : State) : Attempt :=
  if s.scan.bitIdx < Config.NBITS then
    match memRead s (bitAddr s) with
    | some byte =>
      let s := pulse .sclk (emit .sin (byte.getLsbD (7 - s.scan.bitIdx % 8)) s)
      .ok { s with scan := { s.scan with bitIdx := s.scan.bitIdx + 1 } }
    | none => raise (.bufRange (bitAddr s)) s
  else .ok s

/-- `RowChange()` (43_scan_busyloop.md R172). -/
def rowChange (s : State) : State :=
  let s := pulse .blank (pulse .xlat s)
  let next := s.scan.row + 1#3
  let s := setRowSel next { s with scan := { s.scan with row := next } }
  { s with scan := { s.scan with bitIdx := 0, pwm := s.cfg.top } }

/-- The grayscale-clock pulse, the count, and the row change at zero (43_scan_busyloop.md R170). -/
def loopCount (s : State) : State :=
  let s := pulse .gsclk s
  let s := { s with scan := { s.scan with pwm := s.scan.pwm - 1 } }
  if s.scan.pwm = 0 then rowChange s else s

/-- `BLSTEP` (43_scan_busyloop.md R170). -/
def attemptBlstep (s : State) : Attempt :=
  ifBuilt .blstep s fun s =>
  if s.run then andThen (shiftBit s) fun s => .ok (loopCount s) else .hold

def execBlstep (s : State) : Host.Outcome State Fault Refusal := settle s (attemptBlstep s)

end Sys2Proof.Machine
end

