-- ==== Sys2Proof/Machine/ScanIsr.lean ====
section
/-! DEFINITION. The interrupt-driven shift controller: `TICK`, `SHBIT`, `RADV`, `BCMP`
(42_scan_isr.md). Each handler body is one atomic step (60_exceptions.md R208; log 11). -/

namespace Sys2Proof.Machine

/-- The row timer's count and its compare match (42_scan_isr.md R143). -/
def timerCount (s : State) : State :=
  if s.tcnt + 1 = s.cfg.rowPeriod then { s with tcnt := 0, irq := requestRa s.irq }
  else { s with tcnt := s.tcnt + 1 }

/-- `TICK` (42_scan_isr.md R143). -/
def attemptTick (s : State) : Attempt :=
  ifBuilt .tick s fun s =>
  if s.run then .ok (timerCount (pulse .gsclk s)) else .hold

/-- The shift register moved one place, and the request after the eighth bit (42_scan_isr.md R147). -/
def shiftRegister (s : State) : State :=
  let moved : Byte := s.shifter.shreg <<< 1
  if s.shifter.shcnt = 7#3 then
    { s with shifter := { txBusy := false, shreg := moved, shcnt := 0#3 }, irq := requestBc s.irq }
  else { s with shifter := { s.shifter with shreg := moved, shcnt := s.shifter.shcnt + 1#3 } }

/-- `SHBIT` (42_scan_isr.md R147). -/
def attemptShbit (s : State) : Attempt :=
  ifBuilt .shbit s fun s =>
  if s.shifter.txBusy then
    .ok (shiftRegister (pulse .sclk (emit .sin (s.shifter.shreg.getLsbD 7) s)))
  else .hold

/-- `RowAdvance()` up to its transmit write: blank, latch, select the current row, advance, reset the
counter (42_scan_isr.md R150). -/
def rowAdvanceHead (s : State) : State :=
  let s := setRowSel s.scan.row (pulse .xlat (emit .blank true s))
  { s with scan := { s.scan with row := s.scan.row + 1#3, cnt := BitVec.ofNat 16 (Config.L - 1) } }

/-- `RowAdvance()` (42_scan_isr.md R150). -/
def rowAdvance (s : State) : Attempt :=
  let s := rowAdvanceHead s
  andThen (txLoad (rowBase s.cfg s.scan.row : Int) s) fun s => .ok (emit .blank false s)

/-- `RADV` (42_scan_isr.md R149): the request must be pending, and Byte-Complete goes first under
`BC_FIRST` (60_exceptions.md R205). -/
def attemptRadv (s : State) : Attempt :=
  ifBuilt .radv s fun s =>
  if s.run = true ∧ s.irq.raPend = true then
    if s.cfg.irqOrder = .bcFirst ∧ s.irq.bcPend = true then .hold
    else rowAdvance { s with irq := { s.irq with raPend := false } }
  else .hold

/-- The address `rowbase(ROW) + (L - 1 - CNT)` (42_scan_isr.md R155). -/
def nextByteAddr (s : State) : Int :=
  (rowBase s.cfg s.scan.row : Int) + ((Config.L : Int) - 1 - s.scan.cnt.toInt)

/-- `ByteComplete()` (42_scan_isr.md R155). -/
def byteComplete (s : State) : Attempt :=
  if cntNegative s.scan.cnt then .ok s
  else
    let s := { s with scan := { s.scan with cnt := s.scan.cnt - 1#16 } }
    if cntNegative s.scan.cnt then .ok s else txLoad (nextByteAddr s) s

/-- `BCMP` (42_scan_isr.md R154): the request must be pending, and Row-Advance goes first under
`RA_FIRST` (60_exceptions.md R205). -/
def attemptBcmp (s : State) : Attempt :=
  ifBuilt .bcmp s fun s =>
  if s.run = true ∧ s.irq.bcPend = true then
    if s.cfg.irqOrder = .raFirst ∧ s.irq.raPend = true then .hold
    else byteComplete { s with irq := { s.irq with bcPend := false } }
  else .hold

def execTick (s : State) : Host.Outcome State Fault Refusal := settle s (attemptTick s)

def execShbit (s : State) : Host.Outcome State Fault Refusal := settle s (attemptShbit s)

def execRadv (s : State) : Host.Outcome State Fault Refusal := settle s (attemptRadv s)

def execBcmp (s : State) : Host.Outcome State Fault Refusal := settle s (attemptBcmp s)

end Sys2Proof.Machine
end

