-- ==== Sys2Proof/Machine/Dispatch.lean ====
section
/-! DEFINITION. One arm per constructor of `Instr`, each one direct call of its meaning. -/

namespace Sys2Proof.Machine

def exec (i : Instr) (s : State) : Host.Outcome State Fault Refusal :=
  match i with
  | .wrpix row col ch value => Sys2Proof.Machine.execWrpix row col ch value s
  | .encfrm scale orient => Sys2Proof.Machine.execEncfrm scale orient s
  | .scstep => Sys2Proof.Machine.execScstep s
  | .start => Sys2Proof.Machine.execStart s
  | .tick => Sys2Proof.Machine.execTick s
  | .radv => Sys2Proof.Machine.execRadv s
  | .bcmp => Sys2Proof.Machine.execBcmp s
  | .shbit => Sys2Proof.Machine.execShbit s
  | .encstep => Sys2Proof.Machine.execEncstep s
  | .blstep => Sys2Proof.Machine.execBlstep s

end Sys2Proof.Machine
end

