-- ==== Sys2Proof/Machine/Fetch.lean ====
section
/-! DEFINITION. How the next step word comes to be taken. The block has no program counter and no
instruction memory (10_state.md R21, 20_memory.md R60): the schedule, an input from outside, names each
step (30_encoding.md R80; log 1). -/

namespace Sys2Proof.Machine

/-- The next step word: the oldest one placed, else the one the hardware's event timing offers, a free
value (30_encoding.md R80; log 1). -/
def nextWord (s : State) : Word :=
  match s.sched with
  | w :: _ => w
  | [] => Config.eventWord s.events

/-- The state with that word taken; it is spent whatever its outcome (log 2). -/
def takeWord (s : State) : State :=
  match s.sched with
  | _ :: rest => { s with sched := rest }
  | [] => { s with events := s.events + 1 }

/-- What stops the machine before it takes a word: an ill-formed configuration is refused
(00_scope.md R5, I39; log 8), and a faulted state takes no further step (95_test_vectors.md P4,
93_implementation_defined.md; log 4). -/
def stopped (s : State) : Option (Host.Outcome State Fault Refusal) :=
  if s.cfg.wf then (firstFault s.faults).map .fault else some (.refused .illFormedConfig)

/-- The build a decoded instruction is present in: the build at hand where it has the word, else the
other one (00_scope.md R2, 30_encoding.md R86; log 12). -/
def buildFor (i : Instr) (strat : Strategy) : Strategy :=
  if i.inBuild strat then strat
  else
    match strat with
    | .isr => .busy
    | .busy => .isr

/-- The state with a word placed to be taken next, in a build that has the word (log 12). -/
def placeWord (w : Word) (s : State) : State :=
  match decode w with
  | .ok i => { s with cfg := { s.cfg with strat := buildFor i s.cfg.strat }, sched := w :: s.sched }
  | .error _ => { s with sched := w :: s.sched }

end Sys2Proof.Machine
end

