-- ==== Sys2Proof/Machine/Step.lean ====
section
/-! DEFINITION. One step of the machine: one step word taken from the schedule (30_encoding.md R80). -/

namespace Sys2Proof.Machine

/-- Take the next step word. A word the decoder refuses has the effect of 30_encoding.md R88: the mark
`REFUSED` and nothing else. -/
def step (s : State) : Host.Outcome State Fault Refusal :=
  match stopped s with
  | some o => o
  | none =>
    match decode (nextWord s) with
    | .ok i => exec i (takeWord s)
    | .error r => settle (takeWord s) (.refuse r)

/-- The state with one instruction, its bits numbered as the opcode table numbers them, placed as the
next step word (log 1, 12). -/
def State.withFetchWord (s : State) (nbits w : Nat) : State := placeWord (tableWord nbits w) s

end Sys2Proof.Machine
end

