-- ==== Sys2Proof/Machine/Asm.lean ====
section
/-! DEFINITION. The spec's assembly syntax and pseudo-instructions (30_encoding.md R90). A line is a
mnemonic, then comma-separated operands; numbers are decimal or `0x` hex. -/

namespace Sys2Proof.Machine

/-! ## Pseudo-instructions -/

/-- `TICKS n` -/
def ticks (n : Nat) : List Instr := List.replicate n .tick

/-- `SHBYTE` -/
def shbyte : List Instr := List.replicate 8 .shbit

/-- `ENCRUN`, the `ENCSTEP`s of one whole pass. -/
def encrun (c : Config) : List Instr := List.replicate c.pbufSize .encstep

/-- `BLSTEPS n` -/
def blsteps (n : Nat) : List Instr := List.replicate n .blstep

/-- `n` repetitions of (`SHBYTE`, `BCMP`). -/
def byteTransfers (n : Nat) : List Instr := (List.replicate n (shbyte ++ [.bcmp])).flatten

/-- `ROWXFER` -/
def rowxfer : List Instr := .radv :: byteTransfers Config.L

/-! ## Lines -/

/-- The value of a digit in a base up to 16. -/
def digitOf (base : Nat) (c : Char) : Option Nat :=
  let n := c.toNat
  let d : Nat :=
    if 48 ≤ n ∧ n ≤ 57 then n - 48
    else if 97 ≤ n ∧ n ≤ 102 then n - 87
    else if 65 ≤ n ∧ n ≤ 70 then n - 55
    else 16
  if d < base then some d else none

/-- Digits read most significant first. -/
def digitsOf (base acc : Nat) (cs : List Char) : Option Nat :=
  match cs with
  | [] => some acc
  | c :: rest =>
    match digitOf base c with
    | some d => digitsOf base (acc * base + d) rest
    | none => none

/-- A decimal or `0x` hexadecimal number. -/
def numberOf (cs : List Char) : Option Nat :=
  match cs with
  | [] => none
  | '0' :: 'x' :: d :: rest => digitsOf 16 0 (d :: rest)
  | c :: rest => digitsOf 10 0 (c :: rest)

/-- A number below `bound`. -/
def numberBelow (bound : Nat) (cs : List Char) : Option Nat :=
  (numberOf cs).bind fun n => if n < bound then some n else none

/-- `g` or `r`. -/
def channelName (cs : List Char) : Option Channel :=
  if cs = ['g'] then some .green else if cs = ['r'] then some .red else none

/-- The pieces of a list between separators. -/
def pieces (sep : Char) (cs : List Char) : List (List Char) :=
  match cs with
  | [] => [[]]
  | c :: rest =>
    match pieces sep rest with
    | [] => [[c]]
    | p :: ps => if c = sep then [] :: p :: ps else (c :: p) :: ps

/-- A line's mnemonic and operands: the mnemonic ends at the first space, further spaces do not count. -/
def splitLine (cs : List Char) : List Char × List (List Char) :=
  let mnemonic := cs.takeWhile (· ≠ ' ')
  let rest := (cs.dropWhile (· ≠ ' ')).filter (· ≠ ' ')
  (mnemonic, if rest = [] then [] else pieces ',' rest)

/-- A word or pseudo-instruction without operands. -/
def plainLine (c : Config) (mnemonic : String) : Option (List Instr) :=
  if mnemonic = "SCSTEP" then some [.scstep]
  else if mnemonic = "START" then some [.start]
  else if mnemonic = "TICK" then some [.tick]
  else if mnemonic = "RADV" then some [.radv]
  else if mnemonic = "BCMP" then some [.bcmp]
  else if mnemonic = "SHBIT" then some [.shbit]
  else if mnemonic = "ENCSTEP" then some [.encstep]
  else if mnemonic = "BLSTEP" then some [.blstep]
  else if mnemonic = "SHBYTE" then some shbyte
  else if mnemonic = "ENCRUN" then some (encrun c)
  else if mnemonic = "ROWXFER" then some rowxfer
  else none

/-- A word or pseudo-instruction with operands. -/
def operandLine (mnemonic : String) (ops : List (List Char)) : Option (List Instr) :=
  match ops with
  | [n] =>
    if mnemonic = "TICKS" then (numberOf n).map ticks
    else if mnemonic = "BLSTEPS" then (numberOf n).map blsteps
    else none
  | [s, o] =>
    if mnemonic = "ENCFRM" then
      match numberBelow 65536 s, numberBelow 2 o with
      | some s, some o => some [.encfrm (BitVec.ofNat 16 s) (decide (o = 1))]
      | _, _ => none
    else none
  | [r, k, ch, v] =>
    if mnemonic = "WRPIX" then
      match numberBelow 8 r, numberBelow 16 k, channelName ch, numberBelow 65536 v with
      | some r, some k, some ch, some v =>
        some [.wrpix (BitVec.ofNat 3 r) (BitVec.ofNat 4 k) ch (BitVec.ofNat 16 v)]
      | _, _, _, _ => none
    else none
  | _ => none

/-- One line of assembly, expanded. -/
def assembleLine (c : Config) (cs : List Char) : Option (List Instr) :=
  let line := splitLine cs
  if line.2 = [] then plainLine c (String.ofList line.1) else operandLine (String.ofList line.1) line.2

/-- The step words of a list of lines, in order. -/
def assemble (c : Config) (ls : List (List Char)) : Option (List Word) :=
  match ls with
  | [] => some []
  | l :: rest =>
    match assembleLine c l, assemble c rest with
    | some is, some ws => some (is.map encode ++ ws)
    | _, _ => none

end Sys2Proof.Machine
end

