-- ==== Sys2Proof/Safety.lean ====
section
/-! DEFINITION. What claims about the block are stated in: runs and schedules (30_encoding.md R80,
00_scope.md R9), the launch premises of 70_reset_and_hazards.md R253, the invariant every run keeps, and
what is read off the trace. -/

namespace Sys2Proof.Machine

/-! ## Runs -/

/-- `n` steps, ending early where a step does not answer a next state. -/
def runFor : Nat → State → Host.Outcome State Fault Refusal
  | 0, s => .next s
  | n + 1, s =>
    match step s with
    | .next t => runFor n t
    | .fault r => .fault r
    | .refused r => .refused r

/-- A schedule applied in order (30_encoding.md R80). -/
def runSchedule (ws : List Word) (s : State) : Host.Outcome State Fault Refusal :=
  runFor ws.length { s with sched := ws }

/-- Whether a step with this outcome was taken: it was neither a hold nor a refusal (00_scope.md R9). -/
def wasTaken (o : StepOutcome) : Bool :=
  match o with
  | .ok => true
  | .hold => false
  | .fault _ => true
  | .refuse _ => false

/-- A schedule is a run as written when no word of it holds or is refused (00_scope.md R9). -/
def isRun : List Word → State → Bool
  | [], _ => true
  | w :: ws, s =>
    match step { s with sched := [w] } with
    | .next t => wasTaken t.outcome && isRun ws t
    | .fault _ => false
    | .refused _ => false

/-- A step is enabled: the machine is not stopped and the step would be taken (00_scope.md R9). -/
def stepEnabled (i : Instr) (s : State) : Bool :=
  i.wf && (stopped s).isNone &&
    (match exec i s with
     | .next t => wasTaken t.outcome
     | .fault _ => false
     | .refused _ => false)

/-- Some step of an agent is enabled. -/
def AgentEnabled (a : Agent) (s : State) : Prop := ∃ i : Instr, i.agent = a ∧ stepEnabled i s = true

/-- An infinite sequence of enabled steps (30_encoding.md R80). -/
def IsInfiniteRun (word : Nat → Instr) (at_ : Nat → State) : Prop :=
  ∀ n, stepEnabled (word n) (at_ n) = true ∧ exec (word n) (at_ n) = .next (at_ (n + 1))

/-- Weak fairness (70_reset_and_hazards.md R251): an agent enabled from some point on steps infinitely
often. -/
def WeaklyFair (word : Nat → Instr) (at_ : Nat → State) : Prop :=
  ∀ a : Agent, (∃ n, ∀ m, n ≤ m → AgentEnabled a (at_ m)) → ∀ n, ∃ m, n ≤ m ∧ (word m).agent = a

/-! ## The launch premises of R253 -/

/-- `NoFault` -/
def NoFault (s : State) : Prop := s.faults = FaultSet.empty

/-- `NoRefusal` -/
def NoRefusal (s : State) : Prop := s.refused = false

/-- `NoLost` -/
def NoLost (s : State) : Prop := s.irq.raLost = false ∧ s.irq.bcLost = false

/-- `Encoded(s, o)`: no pass in progress and every byte is the packer's on the current frame. -/
def Encoded (scale : Scale) (orient : Bool) (s : State) : Prop :=
  s.enc.busy = false ∧
    ∀ b off, b < s.cfg.b → off < Config.L →
      pbufByte s.pbuf (b * Config.L + off) = packedByte s.frame b off scale orient

/-- `FullWindow` -/
def FullWindow (s : State) : Prop := Config.NBITS ≤ s.cfg.top

/-- For each `RADV` of a schedule, the steps after it up to the next `RADV`. -/
def rowSegments : List Instr → List (List Instr)
  | [] => []
  | i :: rest =>
    if i = .radv then rest.takeWhile (· ≠ .radv) :: rowSegments rest else rowSegments rest

/-- The steps of a row transfer in a segment, in order (42_scan_isr.md R158). -/
def transferSteps (seg : List Instr) : List Instr :=
  seg.filter (fun i => decide (i = .shbit ∨ i = .bcmp))

/-- `WholeRows`: between two `RADV` steps stands one whole row transfer, and no `BCMP` is stale, since
each stands after the eight `SHBIT`s of its byte. -/
def WholeRows (is : List Instr) : Prop :=
  (∀ seg ∈ (rowSegments is).dropLast, transferSteps seg = byteTransfers Config.L) ∧
    ∀ seg ∈ rowSegments is, transferSteps seg <+: byteTransfers Config.L

/-- `NoTear`: no `ENCSTEP` between a `RADV` and the last of the `L` `BCMP`s of its transfer. -/
def NoTear (is : List Instr) : Prop :=
  ∀ seg ∈ rowSegments is, ∀ before after,
    seg = before ++ .encstep :: after → Config.L ≤ before.count .bcmp

/-! ## What the trace shows -/

/-- The values set on the row-select bus, in order. -/
def rowselEvents (tr : List LineEvent) : List (BitVec 8) :=
  tr.filterMap fun e =>
    match e with
    | .rowsel v => some v
    | .bit _ _ => none

/-- How often a line was raised. -/
def rises (l : Line) (tr : List LineEvent) : Nat := tr.count (.bit l true)

/-- The line levels after one more event. -/
def applyEvent (x : Lines) (e : LineEvent) : Lines :=
  match e with
  | .bit l v => setLine x l v
  | .rowsel v => { x with rowsel := v }

/-- The line levels a trace leaves, from the reset levels. -/
def replay (tr : List LineEvent) : Lines := tr.foldl applyEvent Lines.reset

/-- The trace of one bit shifted out: the data line, then a clock pulse (42_scan_isr.md R145). -/
def bitEvents (v : Bool) : List LineEvent := [.bit .sin v, .bit .sclk true, .bit .sclk false]

/-- The trace of `n` bits of a packed row from `base`, in order, each byte MSB first
(42_scan_isr.md R158). -/
def rowBits (m : List Host.Cell) (base n : Nat) : List LineEvent :=
  (List.range n).flatMap fun i => bitEvents ((pbufByte m (base + i / 8)).getLsbD (7 - i % 8))

/-- A state after more line events, in order: lines and trace move together (00_scope.md R10). -/
def withEvents (s : State) (es : List LineEvent) : State :=
  { s with lines := es.foldl applyEvent s.lines, trace := s.trace ++ es }

/-- The trace of a pulse (00_scope.md R10). -/
def pulseEvents (l : Line) : List LineEvent := [.bit l true, .bit l false]

/-! ## When a step is held or refused -/

/-- When a decoded word of this build is held (93_implementation_defined.md I38, 60_exceptions.md
R205). -/
def heldWhen (i : Instr) (s : State) : Bool :=
  match i with
  | .wrpix _ _ _ _ => s.enc.busy
  | .encfrm _ _ => s.enc.busy
  | .scstep => s.enc.busy
  | .start => s.enc.busy
  | .tick => !s.run
  | .radv => !s.run || !s.irq.raPend || (decide (s.cfg.irqOrder = .bcFirst) && s.irq.bcPend)
  | .bcmp => !s.run || !s.irq.bcPend || (decide (s.cfg.irqOrder = .raFirst) && s.irq.raPend)
  | .shbit => !s.shifter.txBusy
  | .encstep => !s.enc.busy
  | .blstep => !s.run

/-- When a decoded word is refused, and why: the reason with the lowest code, the build before any hold
and the per-rule reasons after it (30_encoding.md R88, 60_exceptions.md R201, R206). -/
def refusedFor (i : Instr) (s : State) : Option RefuseReason :=
  if i.wf = false then some .operandRange
  else if i.inBuild s.cfg.strat = false then some .wrongStrategy
  else if heldWhen i s then none
  else if i.agent = .host ∧ s.cfg.strat = .busy ∧ s.run = true then some .hostConsumed
  else if i = .start ∧ s.run = true then some .alreadyRunning
  else none

/-! ## Invariants -/

/-- What holds in every state a run reaches: the ranges of 10_state.md R22 to R33, the canonical form of
the memories, that a build keeps the other build's state at reset (R23 to R25, 43_scan_busyloop.md
R176), that no request or transfer exists before `START` (60_exceptions.md R204), that no pass is in
progress once a `BUSY` build runs (43_scan_busyloop.md R170), that clock and latch lines are low between
steps, and that no `BUF_RANGE` is ever recorded (60_exceptions.md R200). -/
structure Inv (s : State) : Prop where
  cfgWf : s.cfg.wf = true
  pbufWf : Memory.wf s.cfg.pbufSize s.pbuf = true
  frameWf : Memory.wf Config.FRAME_SIZE s.frame = true
  cntLow : -1 ≤ s.scan.cnt.toInt
  cntHigh : s.scan.cnt.toInt ≤ (Config.L : Int) - 1
  bitIdxHigh : s.scan.bitIdx ≤ Config.NBITS
  pwmLow : 1 ≤ s.scan.pwm
  pwmHigh : s.scan.pwm ≤ s.cfg.top
  tcntHigh : s.tcnt < s.cfg.rowPeriod
  posHigh : s.enc.pos ≤ s.cfg.pbufSize
  posBusy : s.enc.busy = true → s.enc.pos < s.cfg.pbufSize
  shcntIdle : s.shifter.txBusy = false → s.shifter.shcnt = 0#3
  notRunning : s.run = false →
    s.irq.raPend = false ∧ s.irq.bcPend = false ∧ s.shifter.txBusy = false
  busyBuild : s.cfg.strat = .busy →
    s.irq = { raPend := false, bcPend := false, raLost := false, bcLost := false } ∧
      s.shifter.txBusy = false ∧
      s.scan.cnt = -1#16 ∧ s.tcnt = 0 ∧ s.faults = FaultSet.empty
  hostConsumed : s.cfg.strat = .busy → s.run = true → s.enc.busy = false
  isrBuild : s.cfg.strat = .isr → s.scan.bitIdx = 0 ∧ s.scan.pwm = s.cfg.top
  pulsesLow : s.lines.sclk = false ∧ s.lines.xlat = false ∧ s.lines.gsclk = false
  oneRow : s.lines.rowsel = 0xFF#8 ∨ ∃ r : BitVec 3, s.lines.rowsel = selectMask r
  noBufRange : s.faults.bufRange = none

/-- While a pass is in progress, the bytes it has written are the packer's on the current frame
(41_packer.md R127, R128). -/
def PassPrefix (s : State) : Prop :=
  s.enc.busy = true → ∀ a, a < s.enc.pos →
    pbufByte s.pbuf a =
      packedByte s.frame (a / Config.L) (a % Config.L) s.enc.scale s.enc.orient

/-- Row `k` of the row-select sequence: the ISR strategy selects before it advances, the busy loop after
(42_scan_isr.md R151, 43_scan_busyloop.md R175). -/
def selectedRow (strat : Strategy) (k : Nat) : BitVec 3 :=
  match strat with
  | .isr => BitVec.ofNat 3 (Config.ROW_INIT + k)
  | .busy => BitVec.ofNat 3 (Config.ROW_INIT + k + 1)

/-- The rows selected so far are in the row cycle order, and `ROW` is as many rows past its reset value
as there were selections (42_scan_isr.md R151, 43_scan_busyloop.md R175). -/
def RowCycleOrder (s : State) : Prop :=
  s.scan.row = BitVec.ofNat 3 (Config.ROW_INIT + (rowselEvents s.trace).length) ∧
    rowselEvents s.trace =
      (List.range (rowselEvents s.trace).length).map fun k => selectMask (selectedRow s.cfg.strat k)

/-- In an `ISR` build the row timer counts the grayscale-clock pulses modulo `ROW_PERIOD`
(42_scan_isr.md R144). -/
def TimerCountsPulses (s : State) : Prop :=
  s.cfg.strat = .isr → rises .gsclk s.trace % s.cfg.rowPeriod = s.tcnt

/-- In a `BUSY` build each row window has `TOP` grayscale-clock pulses and `min(TOP, NBITS)` bits, and the
cursor and counter say how far the current one is (43_scan_busyloop.md R173). -/
def WindowCounts (s : State) : Prop :=
  s.cfg.strat = .busy →
    rises .gsclk s.trace =
        (rowselEvents s.trace).length * s.cfg.top + (s.cfg.top - s.scan.pwm) ∧
      s.scan.bitIdx = min Config.NBITS (s.cfg.top - s.scan.pwm) ∧
      rises .sclk s.trace =
        (rowselEvents s.trace).length * min s.cfg.top Config.NBITS + s.scan.bitIdx

/-- The Frame Source's scale stays in its bound range, and below (above) the bound it moves towards
(40_host.md R103). The reset value 1 lies one step below the range. -/
def ScaleInBounds (s : State) : Prop :=
  match s.host.dir with
  | .up => 1 ≤ s.host.scale.toNat ∧ s.host.scale.toNat < Config.SCALE_HI
  | .down => Config.SCALE_LO < s.host.scale.toNat ∧ s.host.scale.toNat ≤ Config.SCALE_HI

/-- The line levels are those the trace leaves (00_scope.md R10, 10_state.md R36, R37). -/
def LinesFollowTrace (s : State) : Prop := s.lines = replay s.trace

end Sys2Proof.Machine
end

