-- ==== Sys2Proof/Certificates/Slice0/Obligations.lean ====
section
/-! DEFINITION. The statements for the provers. A next state that is given whole, as a record update of
`s`, says the frame with it: every field not named is unchanged. How a step ended, one of the four outcomes of
00_scope.md R9, is read in the model's own field `outcome` (log 6). -/

open Sys2Proof Sys2Proof.Machine

/-! ## Encoding -/

/-- R81 to R86: decoding an instruction's word gives the instruction back, for every operand. -/
def Obligations.DecodeEncodeRoundTrip : Prop :=
  ∀ i : Instr, i.wf = true → decode (encode i) = .ok i

/-- R85 to R87: a word that decodes is the word of what it decodes to, which is well formed. -/
def Obligations.EncodeDecodeRoundTrip : Prop :=
  ∀ (w : Word) (i : Instr), decode w = .ok i → i.wf = true ∧ encode i = w

/-- R87: a word matches exactly one row of the map and passes the operand check, or is refused; a refused
word matches no row, unless it is refused for its operands; no word matches two rows. -/
def Obligations.DecodeIsTotalOnOneRow : Prop :=
  ∀ w : Word,
    (rowsOf w).length ≤ 1 ∧
    ((∃ i, decode w = .ok i ∧ i.wf = true ∧ rowsOf w = [i.opRow]) ∨
     (∃ r, decode w = .error r ∧
        (r = .operandRange ∨ ((r = .reservedOpc ∨ r = .reservedField) ∧ rowsOf w = []))))

/-- R88 (a) to (c), lowest code first (R201): which words the decoder refuses, and why. -/
def Obligations.DecoderRefusesByLowestCode : Prop :=
  ∀ w : Word,
    (decode w = .error .reservedOpc ↔ (opcField w).toNat ∈ [0x0, 0x5, 0x6, 0x7, 0xE, 0xF]) ∧
    (decode w = .error .reservedField ↔
      ((opcField w).toNat = 0x1 ∧ reservedP w ≠ 0#4) ∨
      ((opcField w).toNat = 0x2 ∧ reservedE w ≠ 0#11) ∨
      ((opcField w).toNat ∈ [0x3, 0x4, 0x8, 0x9, 0xA, 0xB, 0xC, 0xD] ∧ reservedN w ≠ 0#28)) ∧
    (decode w = .error .operandRange ↔
      (opcField w).toNat = 0x1 ∧ reservedP w = 0#4 ∧
        (Config.R ≤ (rowField w).toNat ∨ Config.C ≤ (colField w).toNat))

/-- Words written out from the spec (R90, R86) decode to what they stand for. -/
def Obligations.SpecWordsDecode : Prop :=
  decode 0x10100006#32 = .ok (.wrpix 0#3 1#4 .green 6#16) ∧
  decode 0x2800007F#32 = .ok (.encfrm 127#16 true) ∧
  decode 0x30000000#32 = .ok .scstep ∧
  decode 0x80000000#32 = .ok .tick ∧
  decode 0xA0000000#32 = .ok .bcmp ∧
  decode 0xC0000000#32 = .ok .encstep ∧
  decode 0xD0000000#32 = .ok .blstep ∧
  decode 0xD0000001#32 = .error .reservedField ∧
  decode 0x10800000#32 = .error .operandRange

/-! ## The step -/

/-- R80 (log 1): a step of a machine that is not stopped is `exec` of the decoded next word, with that
word taken from the schedule; with nothing placed, the word is the environment's free choice, whichever it
is. -/
def Obligations.StepRunsDecodedWord : Prop :=
  ∀ s : State, s.cfg.wf = true → s.faults = FaultSet.empty →
    (∀ w rest i, s.sched = w :: rest → decode w = .ok i → step s = exec i { s with sched := rest }) ∧
    (s.sched = [] →
      step s =
        match decode (Config.eventWord s.events) with
        | .ok i => exec i { s with events := s.events + 1 }
        | .error r => .next { s with events := s.events + 1, refused := true, outcome := .refuse r })

/-- R88: a word the decoder refuses changes only `REFUSED` (and the model's own `outcome` and `sched`). -/
def Obligations.UndecodableWordSetsOnlyRefused : Prop :=
  ∀ (s : State) (w : Word) (rest : List Word) (r : RefuseReason),
    s.cfg.wf = true → s.faults = FaultSet.empty → s.sched = w :: rest → decode w = .error r →
    step s = .next { s with sched := rest, refused := true, outcome := .refuse r }

/-- R215 with P4 and D38 (log 4): a faulted state takes no further step. -/
def Obligations.FaultedStateTakesNoStep : Prop :=
  ∀ s : State, s.cfg.wf = true →
    (∀ byte, s.faults.txCollision = some byte → step s = .fault (.txCollision byte)) ∧
    (∀ addr, s.faults.txCollision = none → s.faults.bufRange = some addr →
      step s = .fault (.bufRange addr))

/-- R5, I39: a machine with an ill-formed configuration is refused. -/
def Obligations.IllFormedConfigurationRefused : Prop :=
  ∀ s : State,
    (s.cfg.b = 0 ∨ Config.R < s.cfg.b ∨ s.cfg.rowPeriod = 0 ∨ s.cfg.top = 0) →
    step s = .refused .illFormedConfig

/-- R9: a held step changes nothing (but the model's own `outcome`), for every instruction. -/
def Obligations.HoldChangesNothing : Prop :=
  ∀ (i : Instr) (s t : State), exec i s = .next t → t.outcome = .hold →
    t = { s with outcome := .hold }

/-- R88, R39: a refused step sets `REFUSED` and changes nothing else, for every instruction. -/
def Obligations.RefusalSetsOnlyRefused : Prop :=
  ∀ (i : Instr) (s t : State) (r : RefuseReason), exec i s = .next t → t.outcome = .refuse r →
    t = { s with refused := true, outcome := .refuse r }

/-- R100, R127, R143, R147, R149, R154, R170, R205, I38: exactly when a step is held. -/
def Obligations.HeldExactlyWhen : Prop :=
  ∀ (i : Instr) (s : State),
    (∃ t, exec i s = .next t ∧ t.outcome = .hold) ↔
      i.wf = true ∧ i.inBuild s.cfg.strat = true ∧ heldWhen i s = true

/-- R88 (c) to (e), R101, R104, R201: exactly when, and why, a step is refused. -/
def Obligations.RefusedExactlyWhen : Prop :=
  ∀ (i : Instr) (s : State) (r : RefuseReason),
    (∃ t, exec i s = .next t ∧ t.outcome = .refuse r) ↔ refusedFor i s = some r

/-- R200, R146: in a state of a run, the only fault is a handler's transmit write while a byte is
shifting, and it is raised exactly then. -/
def Obligations.CollisionExactlyWhen : Prop :=
  ∀ (i : Instr) (s : State), Inv s →
    ((∃ t r, exec i s = .next t ∧ t.outcome = .fault r) ↔
      s.cfg.strat = .isr ∧ s.shifter.txBusy = true ∧ heldWhen i s = false ∧
        (i = .radv ∨ (i = .bcmp ∧ 1 ≤ s.scan.cnt.toInt)))

/-- R215, R206, R38: a fault outcome records its one reason; any other outcome records none. -/
def Obligations.FaultsRecordedByOutcome : Prop :=
  ∀ (i : Instr) (s t : State), exec i s = .next t →
    (∀ r, t.outcome = .fault r → t.faults = addFault s.faults r) ∧
    ((∀ r, t.outcome ≠ .fault r) → t.faults = s.faults)

/-! ## The host's words -/

/-- R102, whole: the opcode, then the refusals and the hold in their order; otherwise the element is written, every other
element keeps its value, and nothing else changes. -/
def Obligations.WrpixWritesOneElement : Prop :=
  ∀ (row : BitVec 3) (col : BitVec 4) (ch : Channel) (v : Elem) (s : State),
    opcField (encode (.wrpix row col ch v)) = 0x1#4 ∧
    (Config.R ≤ row.toNat ∨ Config.C ≤ col.toNat → exec (.wrpix row col ch v) s =
      .next { s with refused := true, outcome := .refuse .operandRange }) ∧
    (row.toNat < Config.R → col.toNat < Config.C →
      (s.enc.busy = true → exec (.wrpix row col ch v) s = .next { s with outcome := .hold }) ∧
      (s.enc.busy = false → s.cfg.strat = .busy → s.run = true → exec (.wrpix row col ch v) s =
        .next { s with refused := true, outcome := .refuse .hostConsumed }) ∧
      (s.enc.busy = false → (s.cfg.strat = .isr ∨ s.run = false) →
        ∃ t, exec (.wrpix row col ch v) s = .next t ∧
          t = { s with frame := t.frame, outcome := .ok } ∧
          frameRead t.frame row.toNat col.toNat ch = v ∧
          ∀ r c ch', c < Config.C → ¬(r = row.toNat ∧ c = col.toNat ∧ ch' = ch) →
            frameRead t.frame r c ch' = frameRead s.frame r c ch'))

/-- R126, whole: the opcode, the hold and the refusal; otherwise the pass is started with the operands latched and
nothing else changes. -/
def Obligations.EncfrmStartsPass : Prop :=
  ∀ (scale : Scale) (orient : Bool) (s : State),
    opcField (encode (.encfrm scale orient)) = 0x2#4 ∧
    (s.enc.busy = true → exec (.encfrm scale orient) s = .next { s with outcome := .hold }) ∧
    (s.enc.busy = false → s.cfg.strat = .busy → s.run = true → exec (.encfrm scale orient) s =
      .next { s with refused := true, outcome := .refuse .hostConsumed }) ∧
    (s.enc.busy = false → (s.cfg.strat = .isr ∨ s.run = false) → exec (.encfrm scale orient) s =
      .next { s with enc := { busy := true, pos := 0, scale := scale, orient := orient },
                     outcome := .ok })

/-- R103, whole: the word, then refused in a `BUSY` build, held during a pass; otherwise the scale moves by the direction
modulo `2^16`, the bounds are compared after the move, and a pass is started with the new values. -/
def Obligations.ScstepAnimates : Prop :=
  ∀ s : State,
    decode 0x30000000#32 = .ok .scstep ∧
    (s.cfg.strat = .busy → exec .scstep s =
      .next { s with refused := true, outcome := .refuse .wrongStrategy }) ∧
    (s.cfg.strat = .isr → s.enc.busy = true → exec .scstep s = .next { s with outcome := .hold }) ∧
    (s.cfg.strat = .isr → s.enc.busy = false →
      ∃ h : ScaleState,
        h.scale.toNat =
          (match s.host.dir with
           | .up => (s.host.scale.toNat + 1) % 65536
           | .down => (s.host.scale.toNat + 65535) % 65536) ∧
        (h.scale.toNat ≤ Config.SCALE_LO → h.dir = .up ∧ h.orient = !s.host.orient) ∧
        (Config.SCALE_LO < h.scale.toNat → h.scale.toNat < Config.SCALE_HI →
          h.dir = s.host.dir ∧ h.orient = s.host.orient) ∧
        (Config.SCALE_HI ≤ h.scale.toNat → h.dir = .down ∧ h.orient = s.host.orient) ∧
        exec .scstep s =
          .next { s with host := h,
                         enc := { busy := true, pos := 0, scale := h.scale, orient := h.orient },
                         outcome := .ok })

/-- R104, whole: the word, the hold and the two refusals; otherwise `CTRL.RUN` is set and nothing else changes. -/
def Obligations.StartSetsRun : Prop :=
  ∀ s : State,
    decode 0x40000000#32 = .ok .start ∧
    (s.enc.busy = true → exec .start s = .next { s with outcome := .hold }) ∧
    (s.enc.busy = false → s.cfg.strat = .busy → s.run = true → exec .start s =
      .next { s with refused := true, outcome := .refuse .hostConsumed }) ∧
    (s.enc.busy = false → s.cfg.strat = .isr → s.run = true → exec .start s =
      .next { s with refused := true, outcome := .refuse .alreadyRunning }) ∧
    (s.enc.busy = false → s.run = false → exec .start s =
      .next { s with run := true, outcome := .ok })

/-! ## The packer -/

/-- R127: the word; held with no pass; otherwise the byte at `ENC_POS` becomes the packer's, every other byte keeps
its value, the position advances, the pass ends after its last byte, and nothing else changes. -/
def Obligations.EncstepWritesNextByte : Prop :=
  ∀ s : State,
    decode 0xC0000000#32 = .ok .encstep ∧
    (s.enc.busy = false → exec .encstep s = .next { s with outcome := .hold }) ∧
    (s.enc.busy = true → s.enc.pos < s.cfg.pbufSize →
      ∃ t, exec .encstep s = .next t ∧
        t = { s with pbuf := t.pbuf,
                     enc := { s.enc with pos := s.enc.pos + 1,
                                         busy := decide (s.enc.pos + 1 ≠ s.cfg.pbufSize) },
                     outcome := .ok } ∧
        pbufByte t.pbuf s.enc.pos =
          packedByte s.frame (s.enc.pos / Config.L) (s.enc.pos % Config.L) s.enc.scale
            s.enc.orient ∧
        ∀ a, a ≠ s.enc.pos → pbufByte t.pbuf a = pbufByte s.pbuf a)

/-- R120: the three bytes of two codes, and the 24-bit value they write most significant byte first. -/
def Obligations.Pack12SplitsTwoCodes : Prop :=
  ∀ pv1 pv2 : Code,
    (pack12 pv1 pv2).1.toNat = pv1.toNat / 16 ∧
    (pack12 pv1 pv2).2.1.toNat = (pv1.toNat % 16) * 16 + pv2.toNat / 256 ∧
    (pack12 pv1 pv2).2.2.toNat = pv2.toNat % 256 ∧
    (pack12 pv1 pv2).1.toNat * 65536 + (pack12 pv1 pv2).2.1.toNat * 256 +
      (pack12 pv1 pv2).2.2.toNat = pv1.toNat * 4096 + pv2.toNat

/-- R121: a code is the product modulo 4096 at every product width of at least 12 bits. -/
def Obligations.CodeWrapsModulo4096 : Prop :=
  ∀ (v : Elem) (s : Scale),
    (code v s).toNat = v.toNat * s.toNat % 4096 ∧
    ∀ n, 12 ≤ n → (code v s).toNat = v.toNat * s.toNat % 2 ^ n % 4096

/-- R65, R122, R123: the byte of channel `ch`, pair `p` and place `j` of a packed row comes from the
pair's two columns, mirrored when the orientation flag is set. -/
def Obligations.PackedRowLayout : Prop :=
  ∀ (f : List (Nat × Elem)) (b p j : Nat) (ch : Channel) (s : Scale) (o : Bool),
    p < Config.NPAIR → j < 3 →
    packedByte f b (channelNumber ch * Config.HALF + 3 * p + j) s o =
      (let c1 := if o then Config.C - (2 * p) - 1 else 2 * p
       let c2 := if o then Config.C - (2 * p + 1) - 1 else 2 * p + 1
       groupByte (pack12 (code (frameRead f b c1 ch) s) (code (frameRead f b c2 ch) s)) j)

/-- R130: packing a row of a frame with orientation 1 is packing it with orientation 0 in the frame whose
row is column-reversed. -/
def Obligations.MirroringIsColumnReversal : Prop :=
  ∀ (f f' : List (Nat × Elem)) (b : Nat),
    (∀ c ch, c < Config.C → frameRead f' b c ch = frameRead f b (Config.C - 1 - c) ch) →
    ∀ (off : Nat) (s : Scale), off < Config.L → packedByte f b off s true = packedByte f' b off s false

/-- R123, R127: a packed row depends only on the frame row of the same number. -/
def Obligations.PackedRowReadsItsFrameRow : Prop :=
  ∀ (f f' : List (Nat × Elem)) (b off : Nat) (s : Scale) (o : Bool), off < Config.L →
    (∀ c ch, c < Config.C → frameRead f' b c ch = frameRead f b c ch) →
    packedByte f' b off s o = packedByte f b off s o

/-- R127, R128: every step of every agent keeps the bytes a pass in progress has written the packer's. -/
def Obligations.StepKeepsPassPrefix : Prop :=
  ∀ s t : State, Inv s → PassPrefix s → step s = .next t → PassPrefix t

/-- R128, R253: the step that ends a pass leaves every byte of the buffer the packer's on the frame. -/
def Obligations.CompletedPassEncodesFrame : Prop :=
  ∀ s t : State, Inv s → PassPrefix s → step s = .next t → s.enc.busy = true → t.enc.busy = false →
    Encoded s.enc.scale s.enc.orient t

/-! ## The interrupt-driven strategy -/

/-- R143, whole: the word; refused in a `BUSY` build, held before `START`; otherwise one clock pulse and one count,
with the compare match and its merging request. -/
def Obligations.TickCountsAndRequests : Prop :=
  ∀ s : State,
    decode 0x80000000#32 = .ok .tick ∧
    (s.cfg.strat = .busy → exec .tick s =
      .next { s with refused := true, outcome := .refuse .wrongStrategy }) ∧
    (s.cfg.strat = .isr → s.run = false → exec .tick s = .next { s with outcome := .hold }) ∧
    (s.cfg.strat = .isr → s.run = true → s.tcnt + 1 = s.cfg.rowPeriod → exec .tick s =
      .next { withEvents s (pulseEvents .gsclk) with
                tcnt := 0,
                irq := { s.irq with raPend := true, raLost := s.irq.raLost || s.irq.raPend },
                outcome := .ok }) ∧
    (s.cfg.strat = .isr → s.run = true → s.tcnt + 1 ≠ s.cfg.rowPeriod → exec .tick s =
      .next { withEvents s (pulseEvents .gsclk) with tcnt := s.tcnt + 1, outcome := .ok })

/-- R147, whole: the word; refused in a `BUSY` build, held with nothing to shift; otherwise bit 7 is emitted, the
clock pulsed, the register shifted, and the eighth bit ends the byte with its merging request. -/
def Obligations.ShbitShiftsOneBit : Prop :=
  ∀ s : State,
    decode 0xB0000000#32 = .ok .shbit ∧
    (s.cfg.strat = .busy → exec .shbit s =
      .next { s with refused := true, outcome := .refuse .wrongStrategy }) ∧
    (s.cfg.strat = .isr → s.shifter.txBusy = false →
      exec .shbit s = .next { s with outcome := .hold }) ∧
    (s.cfg.strat = .isr → s.shifter.txBusy = true →
      ∃ moved : Byte, moved.toNat = s.shifter.shreg.toNat * 2 % 256 ∧
        (s.shifter.shcnt = 7#3 → exec .shbit s =
          .next { withEvents s (bitEvents (s.shifter.shreg.getLsbD 7)) with
                    shifter := { txBusy := false, shreg := moved, shcnt := 0#3 },
                    irq := { s.irq with bcPend := true, bcLost := s.irq.bcLost || s.irq.bcPend },
                    outcome := .ok }) ∧
        (s.shifter.shcnt ≠ 7#3 → exec .shbit s =
          .next { withEvents s (bitEvents (s.shifter.shreg.getLsbD 7)) with
                    shifter := { txBusy := true, shreg := moved, shcnt := s.shifter.shcnt + 1#3 },
                    outcome := .ok }))

/-- R149, R150, R146: the word, the refusal and the holds; otherwise the handler's events in order, the row advanced, the
counter reset, and byte 0 of the new row in the shifter; or, with a byte still shifting, the effects up to
the transmit write and the fault with the byte recorded, `BLANK` left 1. -/
def Obligations.RadvAdvancesRow : Prop :=
  ∀ s : State,
    decode 0x90000000#32 = .ok .radv ∧
    (s.cfg.strat = .busy → exec .radv s =
      .next { s with refused := true, outcome := .refuse .wrongStrategy }) ∧
    (s.cfg.strat = .isr →
      (s.run = false ∨ s.irq.raPend = false ∨
        (s.cfg.irqOrder = .bcFirst ∧ s.irq.bcPend = true)) →
      exec .radv s = .next { s with outcome := .hold }) ∧
    (s.cfg.wf = true → s.cfg.strat = .isr → s.run = true → s.irq.raPend = true →
      (s.cfg.irqOrder = .bcFirst → s.irq.bcPend = false) →
      ∀ byte : Byte, byte = pbufByte s.pbuf (rowBase s.cfg (s.scan.row + 1#3)) →
      let head : List LineEvent :=
        [.bit .blank true, .bit .xlat true, .bit .xlat false, .rowsel (selectMask s.scan.row)]
      let scan : ScanState := { s.scan with row := s.scan.row + 1#3, cnt := 23#16 }
      (s.shifter.txBusy = false → exec .radv s =
        .next { withEvents s (head ++ [.bit .blank false]) with
                  scan := scan,
                  shifter := { txBusy := true, shreg := byte, shcnt := 0#3 },
                  irq := { s.irq with raPend := false },
                  outcome := .ok }) ∧
      (s.shifter.txBusy = true → exec .radv s =
        .next { withEvents s head with
                  scan := scan,
                  irq := { s.irq with raPend := false },
                  faults := addFault s.faults (.txCollision byte),
                  outcome := .fault (.txCollision byte) }))

/-- R154, R155: the word, the refusal and the holds; otherwise a negative counter is the guarded no-op, counter 0
becomes -1 and nothing is written, and a greater counter is decremented and the next byte of the row is
loaded, or, with a byte still shifting, the fault is raised. -/
def Obligations.BcmpLoadsNextByte : Prop :=
  ∀ s : State,
    decode 0xA0000000#32 = .ok .bcmp ∧
    (s.cfg.strat = .busy → exec .bcmp s =
      .next { s with refused := true, outcome := .refuse .wrongStrategy }) ∧
    (s.cfg.strat = .isr →
      (s.run = false ∨ s.irq.bcPend = false ∨
        (s.cfg.irqOrder = .raFirst ∧ s.irq.raPend = true)) →
      exec .bcmp s = .next { s with outcome := .hold }) ∧
    (s.cfg.wf = true → s.cfg.strat = .isr → s.run = true → s.irq.bcPend = true →
      (s.cfg.irqOrder = .raFirst → s.irq.raPend = false) →
      (s.scan.cnt.toInt < 0 → exec .bcmp s =
        .next { s with irq := { s.irq with bcPend := false }, outcome := .ok }) ∧
      (s.scan.cnt = 0#16 → exec .bcmp s =
        .next { s with scan := { s.scan with cnt := -1#16 },
                       irq := { s.irq with bcPend := false }, outcome := .ok }) ∧
      (∀ k : Nat, 1 ≤ k → k < Config.L → s.scan.cnt = BitVec.ofNat 16 k →
        ∀ byte : Byte, byte = pbufByte s.pbuf (rowBase s.cfg s.scan.row + (Config.L - k)) →
        (s.shifter.txBusy = false → exec .bcmp s =
          .next { s with scan := { s.scan with cnt := BitVec.ofNat 16 (k - 1) },
                         shifter := { txBusy := true, shreg := byte, shcnt := 0#3 },
                         irq := { s.irq with bcPend := false }, outcome := .ok }) ∧
        (s.shifter.txBusy = true → exec .bcmp s =
          .next { s with scan := { s.scan with cnt := BitVec.ofNat 16 (k - 1) },
                         irq := { s.irq with bcPend := false },
                         faults := addFault s.faults (.txCollision byte),
                         outcome := .fault (.txCollision byte) })))

/-- R205: with both requests pending, `IRQ_ORDER` decides which handler holds, and `ANY`, the
default, holds neither. -/
def Obligations.PendingHandlersFollowOrder : Prop :=
  Config.nominal.irqOrder = .any ∧
  ∀ s : State, s.cfg.strat = .isr → s.run = true → s.irq.raPend = true → s.irq.bcPend = true →
    (s.cfg.irqOrder = .raFirst → exec .bcmp s = .next { s with outcome := .hold } ∧
      ∃ t, exec .radv s = .next t ∧ t.outcome ≠ .hold ∧ t.irq.raPend = false) ∧
    (s.cfg.irqOrder = .bcFirst → exec .radv s = .next { s with outcome := .hold } ∧
      ∃ t, exec .bcmp s = .next t ∧ t.outcome ≠ .hold ∧ t.irq.bcPend = false) ∧
    (s.cfg.irqOrder = .any →
      (∃ t, exec .radv s = .next t ∧ t.outcome ≠ .hold ∧ t.irq.raPend = false) ∧
      ∃ t, exec .bcmp s = .next t ∧ t.outcome ≠ .hold ∧ t.irq.bcPend = false)

/-- R207, R209: a handler leaves the main context's state, the memories, the timer and the other source's
pending bit as they were. -/
def Obligations.HandlersKeepMainContext : Prop :=
  ∀ (i : Instr) (s t : State), i.agent = .irq → exec i s = .next t →
    t.host = s.host ∧ t.enc = s.enc ∧ t.frame = s.frame ∧ t.pbuf = s.pbuf ∧ t.run = s.run ∧
      t.tcnt = s.tcnt ∧ t.irq.raLost = s.irq.raLost ∧ t.irq.bcLost = s.irq.bcLost ∧
      (i = .radv → t.irq.bcPend = s.irq.bcPend) ∧ (i = .bcmp → t.irq.raPend = s.irq.raPend)

/-- R156, R158, R150, R159: a Row-Advance followed by `n` repetitions of (8 `SHBIT`, `BCMP`) shifts out
the first `n` bytes of the packed row at the advanced index, in order and MSB first, counts down to
`L-1-n`, has byte `n` in the shifter while there is one, and after `L` of them leaves `CNT = -1`. A
Byte-Complete pending before the Row-Advance changes none of it (R245 (b)); under `BC_FIRST` it would hold
the Row-Advance. -/
def Obligations.RowTransferShiftsRowInOrder : Prop :=
  ∀ (s : State) (n : Nat), n ≤ Config.L →
    s.cfg.wf = true → s.faults = FaultSet.empty → s.cfg.strat = .isr → s.run = true →
    s.irq.raPend = true → (s.cfg.irqOrder = .bcFirst → s.irq.bcPend = false) →
    s.shifter.txBusy = false →
    let base := rowBase s.cfg (s.scan.row + 1#3)
    ∃ t, runSchedule ((.radv :: byteTransfers n).map encode) s = .next t ∧
      t.trace = s.trace ++
        [.bit .blank true, .bit .xlat true, .bit .xlat false, .rowsel (selectMask s.scan.row),
         .bit .blank false] ++ rowBits s.pbuf base (8 * n) ∧
      t.scan.cnt.toInt = (Config.L : Int) - 1 - n ∧ t.scan.row = s.scan.row + 1#3 ∧
      (n = 0 → t.irq.bcPend = s.irq.bcPend) ∧ (0 < n → t.irq.bcPend = false) ∧
      t.faults = FaultSet.empty ∧ t.pbuf = s.pbuf ∧
      (n < Config.L → t.shifter = { txBusy := true, shreg := pbufByte s.pbuf (base + n),
                                     shcnt := 0#3 }) ∧
      (n = Config.L → t.shifter.txBusy = false)

/-- R158, whole: after a Row-Advance with no fault, a schedule of `L` repetitions of (8 `SHBIT`, `BCMP`) with
`TICK`s anywhere adds, but for the ticks' clock pulses, the bits of the packed row in order, and ends with
`CNT = -1`, `TX_BUSY = 0`, `BC_PEND = 0`. The Row-Advance may find a stale Byte-Complete pending (R245 (b)),
but under `BC_FIRST`, where that request holds it. Under `RA_FIRST` a `BCMP` after a compare match is held,
so that there the schedule is a run only with no compare match before a `BCMP`. -/
def Obligations.RowTransferIgnoresTicks : Prop :=
  ∀ (s : State) (mid : List Instr),
    s.cfg.wf = true → s.faults = FaultSet.empty → s.cfg.strat = .isr → s.run = true →
    s.irq.raPend = true → (s.cfg.irqOrder = .bcFirst → s.irq.bcPend = false) →
    s.shifter.txBusy = false →
    mid.filter (fun i => decide (i ≠ .tick)) = byteTransfers Config.L →
    (s.cfg.irqOrder = .raFirst → ∀ before after, mid = before ++ .bcmp :: after →
      s.tcnt + before.count .tick < s.cfg.rowPeriod) →
    ∃ t u, runSchedule [encode .radv] s = .next t ∧ runSchedule (mid.map encode) t = .next u ∧
      u.trace.filter (fun e => decide (∀ v, e ≠ .bit .gsclk v)) =
        t.trace.filter (fun e => decide (∀ v, e ≠ .bit .gsclk v)) ++
          rowBits t.pbuf (rowBase t.cfg t.scan.row) Config.NBITS ∧
      rises .gsclk u.trace = rises .gsclk t.trace + mid.count .tick ∧
      u.scan.cnt = -1#16 ∧ u.shifter.txBusy = false ∧ u.irq.bcPend = false

/-- R245: a Byte-Complete pending across a Row-Advance collides when it is taken before byte 0 finishes, at
whichever of its bits (a); taken after it, it has merged with byte 0's completion, loads byte 1, and the row
completes with all its bytes in order and `CNT = -1` (b). -/
def Obligations.StaleByteComplete : Prop :=
  ∀ s : State, s.cfg.wf = true → s.faults = FaultSet.empty → s.cfg.strat = .isr → s.run = true →
    s.irq.raPend = true → s.irq.bcPend = true → s.shifter.txBusy = false →
    s.cfg.irqOrder ≠ .bcFirst →
    let base := rowBase s.cfg (s.scan.row + 1#3)
    let byte1 := pbufByte s.pbuf (base + 1)
    (∀ n, n < 8 → ∃ t,
      runSchedule ((.radv :: (List.replicate n .shbit ++ [.bcmp])).map encode) s = .next t ∧
      t.scan.cnt = 22#16 ∧ t.outcome = .fault (.txCollision byte1) ∧
      t.faults = addFault FaultSet.empty (.txCollision byte1)) ∧
    (∃ t, runSchedule ((.radv :: (shbyte ++ [.bcmp])).map encode) s = .next t ∧
      t.scan.cnt = 22#16 ∧ t.irq.bcLost = true ∧ t.faults = FaultSet.empty ∧
      t.shifter = { txBusy := true, shreg := byte1, shcnt := 0#3 }) ∧
    (∃ t, runSchedule (rowxfer.map encode) s = .next t ∧
      t.trace = s.trace ++
        [.bit .blank true, .bit .xlat true, .bit .xlat false, .rowsel (selectMask s.scan.row),
         .bit .blank false] ++ rowBits s.pbuf base Config.NBITS ∧
      t.scan.cnt = -1#16 ∧ t.irq.bcLost = true ∧ t.irq.bcPend = false ∧
      t.shifter.txBusy = false ∧ t.faults = FaultSet.empty)

/-! ## The busy-loop strategy -/

/-- R170, R171, R172: the word; refused in an `ISR` build, held before `START`; otherwise the next bit if the row
has one left, the grayscale-clock pulse, the count, and at zero the row change. -/
def Obligations.BlstepIteratesLoop : Prop :=
  ∀ s : State,
    decode 0xD0000000#32 = .ok .blstep ∧
    (s.cfg.strat = .isr → exec .blstep s =
      .next { s with refused := true, outcome := .refuse .wrongStrategy }) ∧
    (s.cfg.strat = .busy → s.run = false → exec .blstep s = .next { s with outcome := .hold }) ∧
    (s.cfg.wf = true → s.cfg.strat = .busy → s.run = true → 1 ≤ s.scan.pwm →
      ∀ (bits : List LineEvent) (cursor : Nat),
      (s.scan.bitIdx < Config.NBITS → cursor = s.scan.bitIdx + 1 ∧ bits = bitEvents
        ((pbufByte s.pbuf (rowBase s.cfg s.scan.row + s.scan.bitIdx / 8)).getLsbD
          (7 - s.scan.bitIdx % 8))) →
      (Config.NBITS ≤ s.scan.bitIdx → cursor = s.scan.bitIdx ∧ bits = []) →
      (s.scan.pwm ≠ 1 → exec .blstep s =
        .next { withEvents s (bits ++ pulseEvents .gsclk) with
                  scan := { s.scan with bitIdx := cursor, pwm := s.scan.pwm - 1 },
                  outcome := .ok }) ∧
      (s.scan.pwm = 1 → exec .blstep s =
        .next { withEvents s (bits ++ pulseEvents .gsclk ++ pulseEvents .xlat ++
                    pulseEvents .blank ++ [.rowsel (selectMask (s.scan.row + 1#3))]) with
                  scan := { s.scan with row := s.scan.row + 1#3, bitIdx := 0, pwm := s.cfg.top },
                  outcome := .ok }))

/-- R176: a `BUSY` build never sets a pending, lost or transmit-busy bit, never writes `CNT`, `TCNT`,
`SHREG` or `SHCNT`, and cannot raise `TX_COLLISION`. -/
def Obligations.BusyBuildHasNoInterruptState : Prop :=
  ∀ s t : State, s.cfg.strat = .busy → step s = .next t →
    t.irq = s.irq ∧ t.shifter = s.shifter ∧ t.scan.cnt = s.scan.cnt ∧ t.tcnt = s.tcnt ∧
      t.faults.txCollision = s.faults.txCollision ∧ ∀ v, t.outcome ≠ .fault (.txCollision v)

/-- R24, R25: an `ISR` build never writes `BITIDX` or `PWM`. -/
def Obligations.IsrBuildKeepsLoopCursors : Prop :=
  ∀ s t : State, s.cfg.strat = .isr → step s = .next t →
    t.scan.bitIdx = s.scan.bitIdx ∧ t.scan.pwm = s.scan.pwm

/-! ## Rules about the whole machine -/

/-- R60, R211: only `ENCSTEP` writes `PBUF` and only `WRPIX` writes `FRAME`. -/
def Obligations.MemoriesHaveOneWriter : Prop :=
  ∀ (i : Instr) (s t : State), exec i s = .next t →
    (i ≠ .encstep → t.pbuf = s.pbuf) ∧
    ((∀ row col ch v, i ≠ .wrpix row col ch v) → t.frame = s.frame)

/-- R34, R35, R5: only `SCSTEP` writes the ScaleState, only `START` writes `CTRL.RUN` and nothing clears
it, and no step writes the configuration. -/
def Obligations.HostStateHasOneWriter : Prop :=
  ∀ (i : Instr) (s t : State), exec i s = .next t →
    (i ≠ .scstep → t.host = s.host) ∧ (i ≠ .start → t.run = s.run) ∧
      (s.run = true → t.run = true) ∧ t.cfg = s.cfg

/-- R30: each pending bit is set by one source only and cleared by its own handler only. -/
def Obligations.PendingBitsHaveOneSource : Prop :=
  ∀ (i : Instr) (s t : State), exec i s = .next t →
    (s.irq.raPend = false → t.irq.raPend = true → i = .tick ∧ s.tcnt + 1 = s.cfg.rowPeriod) ∧
    (s.irq.raPend = true → t.irq.raPend = false → i = .radv) ∧
    (s.irq.bcPend = false → t.irq.bcPend = true → i = .shbit ∧ s.shifter.shcnt = 7#3) ∧
    (s.irq.bcPend = true → t.irq.bcPend = false → i = .bcmp)

/-- R26, R146, R211: only the handlers start a byte, and only the shifter's eighth bit ends one. -/
def Obligations.TransmitRegisterHasTwoWriters : Prop :=
  ∀ (i : Instr) (s t : State), exec i s = .next t →
    (s.shifter.txBusy = false → t.shifter.txBusy = true → i = .radv ∨ i = .bcmp) ∧
    (s.shifter.txBusy = true → t.shifter.txBusy = false → i = .shbit ∧ s.shifter.shcnt = 7#3) ∧
    (i.agent ≠ .irq → i ≠ .shbit → t.shifter = s.shifter)

/-- R31, R38, R39: no instruction clears a lost bit, a recorded reason or `REFUSED`. -/
def Obligations.StickyMarksStay : Prop :=
  ∀ (i : Instr) (s t : State), exec i s = .next t →
    (s.irq.raLost = true → t.irq.raLost = true) ∧ (s.irq.bcLost = true → t.irq.bcLost = true) ∧
      (s.refused = true → t.refused = true) ∧
      (∀ x, s.faults.txCollision = some x → t.faults.txCollision = some x) ∧
      (∀ x, s.faults.bufRange = some x → t.faults.bufRange = some x)

/-- R10, R37: a step only appends events, and the lines move only with them. -/
def Obligations.TraceOnlyGrows : Prop :=
  ∀ s t : State, step s = .next t →
    ∃ es, t.trace = s.trace ++ es ∧ t.lines = es.foldl applyEvent s.lines

/-- R35: `CTRL` and `STATUS` show their fields at their bits, and the reserved bits read as 0. -/
def Obligations.StatusRegistersShowTheirFields : Prop :=
  ∀ s : State,
    (ctrl s).getLsbD 0 = s.run ∧ (ctrl s).getLsbD 1 = decide (s.cfg.strat = .busy) ∧
    (∀ k, 2 ≤ k → (ctrl s).getLsbD k = false) ∧
    (status s).getLsbD 0 = s.shifter.txBusy ∧ (status s).getLsbD 1 = s.irq.raPend ∧
    (status s).getLsbD 2 = s.irq.bcPend ∧ (status s).getLsbD 3 = s.enc.busy ∧
    (status s).getLsbD 4 = s.irq.raLost ∧ (status s).getLsbD 5 = s.irq.bcLost ∧
    (status s).getLsbD 6 = decide (s.faults ≠ FaultSet.empty) ∧ (status s).getLsbD 7 = s.refused

/-! ## Reset and invariants -/

/-- R40: the values reset gives in every build. `SHREG` and the two memories, which the rule leaves
unspecified, are not spoken of. -/
def Obligations.ResetValues : Prop :=
  ∀ c : Config, ∃ shreg : Byte,
    let s := State.resetWith c
    s.scan = { row := 4#3, cnt := -1#16, bitIdx := 0, pwm := c.top } ∧
    s.shifter = { txBusy := false, shreg := shreg, shcnt := 0#3 } ∧ s.tcnt = 0 ∧
    s.irq = { raPend := false, bcPend := false, raLost := false, bcLost := false } ∧
    s.enc = { busy := false, pos := 0, scale := 0#16, orient := false } ∧
    s.host = { scale := 1#16, dir := .up, orient := false } ∧
    s.run = false ∧ s.cfg.strat = c.strat ∧
    s.lines = { sin := false, sclk := false, xlat := false, blank := true, gsclk := false,
                rowsel := BitVec.allOnes 8 } ∧
    s.trace = [] ∧ s.faults = FaultSet.empty ∧ s.refused = false

/-- R66, as the model holds it (log 9): after reset every byte and element reads as its own free value, and
two elements of the frame never share one. -/
def Obligations.ResetMemoriesHoldDraws : Prop :=
  ∀ c : Config,
    (∀ a, pbufByte (State.resetWith c).pbuf a = Config.pbufDraw a) ∧
    (∀ r k ch, frameRead (State.resetWith c).frame r k ch = Config.frameDraw (frameIndex r k ch)) ∧
    ∀ r k ch r' k' ch', k < Config.C → k' < Config.C → frameIndex r k ch = frameIndex r' k' ch' →
      r = r' ∧ k = k' ∧ ch = ch'

/-- The invariant holds after reset in every well-formed build. -/
def Obligations.ResetMeetsInv : Prop :=
  ∀ c : Config, c.wf = true → Inv (State.resetWith c)

/-- Every step keeps the invariant. -/
def Obligations.StepKeepsInv : Prop :=
  ∀ s t : State, Inv s → step s = .next t → Inv t

/-- The invariants over the trace and the pass hold after reset in every build. -/
def Obligations.ResetMeetsTraceInvariants : Prop :=
  ∀ c : Config, PassPrefix (State.resetWith c) ∧ RowCycleOrder (State.resetWith c) ∧
    TimerCountsPulses (State.resetWith c) ∧ WindowCounts (State.resetWith c) ∧
    ScaleInBounds (State.resetWith c) ∧ LinesFollowTrace (State.resetWith c)

/-- R151, R175: every step keeps the row cycle order. -/
def Obligations.StepKeepsRowCycleOrder : Prop :=
  ∀ s t : State, RowCycleOrder s → step s = .next t → RowCycleOrder t

/-- R143, R144: every step keeps the timer the count of grayscale-clock pulses modulo `ROW_PERIOD`. -/
def Obligations.StepKeepsTimerCount : Prop :=
  ∀ s t : State, TimerCountsPulses s → step s = .next t → TimerCountsPulses t

/-- R173: every step keeps the counts of a busy-loop row window. -/
def Obligations.StepKeepsWindowCounts : Prop :=
  ∀ s t : State, Inv s → WindowCounts s → step s = .next t → WindowCounts t

/-- R103: every step keeps the scale in its bound range. -/
def Obligations.StepKeepsScaleInBounds : Prop :=
  ∀ s t : State, ScaleInBounds s → step s = .next t → ScaleInBounds t

/-- R252, R253: after any schedule from reset in any well-formed build, every invariant holds. -/
def Obligations.EveryRunMeetsInvariants : Prop :=
  ∀ (c : Config) (ws : List Word) (n : Nat) (t : State), c.wf = true →
    runFor n { State.resetWith c with sched := ws } = .next t →
    Inv t ∧ PassPrefix t ∧ RowCycleOrder t ∧ TimerCountsPulses t ∧ WindowCounts t ∧
      ScaleInBounds t ∧ LinesFollowTrace t
end

