-- ==== Sys2Proof/Laws/Memory.lean ====
section
/-! SUPPORT. The laws of the two memories: read after write, frame, and that a write keeps the canonical
form. -/

namespace Sys2Proof.Machine

theorem cellAt_putCell_same {α : Type} (m : List (Nat × α)) (a : Nat) (v : α) :
    cellAt (putCell m a v) a = some v := by
  induction m with
  | nil => simp [putCell, cellAt]
  | cons e rest ih =>
    obtain ⟨k, w⟩ := e
    simp only [putCell]
    split
    · simp [cellAt]
    · split
      · simp [cellAt]
      · rename_i h
        simp [cellAt, ih, Ne.symm h]

theorem cellAt_putCell_ne {α : Type} (m : List (Nat × α)) {a b : Nat} (v : α) (h : b ≠ a) :
    cellAt (putCell m a v) b = cellAt m b := by
  induction m with
  | nil => simp [putCell, cellAt, Ne.symm h]
  | cons e rest ih =>
    obtain ⟨k, w⟩ := e
    simp only [putCell]
    split
    · simp [cellAt, Ne.symm h]
    · split
      · rename_i _ hk
        subst hk
        simp [cellAt, Ne.symm h]
      · simp [cellAt, ih]

theorem risingFrom_mono {α : Type} {lo lo' size : Nat} {m : List (Nat × α)} (h : lo ≤ lo')
    (hm : risingFrom lo' size m = true) : risingFrom lo size m = true := by
  cases m with
  | nil => rfl
  | cons e rest =>
    simp only [risingFrom, Bool.and_eq_true, decide_eq_true_eq] at hm ⊢
    exact ⟨⟨h.trans hm.1.1, hm.1.2⟩, hm.2⟩

theorem risingFrom_putCell {α : Type} {lo size a : Nat} {m : List (Nat × α)} (v : α)
    (hm : risingFrom lo size m = true) (hlo : lo ≤ a) (ha : a < size) :
    risingFrom lo size (putCell m a v) = true := by
  induction m generalizing lo with
  | nil => simp [putCell, risingFrom, hlo, ha]
  | cons e rest ih =>
    obtain ⟨k, w⟩ := e
    simp only [risingFrom, Bool.and_eq_true, decide_eq_true_eq] at hm
    simp only [putCell]
    split
    · simp only [risingFrom, Bool.and_eq_true, decide_eq_true_eq]
      exact ⟨⟨hlo, ha⟩, ⟨by omega, hm.1.2⟩, hm.2⟩
    · split
      · rename_i _ hk
        subst hk
        simp only [risingFrom, Bool.and_eq_true, decide_eq_true_eq]
        exact ⟨⟨hlo, ha⟩, hm.2⟩
      · simp only [risingFrom, Bool.and_eq_true, decide_eq_true_eq]
        exact ⟨hm.1, ih hm.2 (by omega)⟩

/-- A write inside a memory keeps its canonical form. -/
theorem putCell_wf {α : Type} {size a : Nat} {m : List (Nat × α)} (v : α)
    (hm : Memory.wf size m = true) (ha : a < size) : Memory.wf size (putCell m a v) = true :=
  risingFrom_putCell v hm (Nat.zero_le a) ha

/-- An address below every listed one holds no written value. -/
theorem cellAt_none_of_lt {α : Type} {lo size a : Nat} {m : List (Nat × α)}
    (hm : risingFrom lo size m = true) (ha : a < lo) : cellAt m a = none := by
  induction m generalizing lo with
  | nil => rfl
  | cons e rest ih =>
    obtain ⟨k, w⟩ := e
    simp only [risingFrom, Bool.and_eq_true, decide_eq_true_eq] at hm
    have hk : k ≠ a := by omega
    simp only [cellAt, hk, if_false]
    exact ih hm.2 (by omega)

/-- Memories in canonical form that hold the same values are the same list. -/
theorem memory_ext {α : Type} {lo size : Nat} {m m' : List (Nat × α)}
    (hm : risingFrom lo size m = true) (hm' : risingFrom lo size m' = true)
    (h : ∀ a, cellAt m a = cellAt m' a) : m = m' := by
  induction m generalizing lo m' with
  | nil =>
    cases m' with
    | nil => rfl
    | cons e rest => simpa [cellAt] using h e.1
  | cons e rest ih =>
    obtain ⟨k, w⟩ := e
    cases m' with
    | nil => simpa [cellAt] using h k
    | cons e' rest' =>
      obtain ⟨k', w'⟩ := e'
      simp only [risingFrom, Bool.and_eq_true, decide_eq_true_eq] at hm hm'
      have hkk : k = k' := by
        rcases Nat.lt_trichotomy k k' with hlt | heq | hgt
        · have h1 := h k
          rw [cellAt, if_pos rfl, cellAt, if_neg (by omega),
            cellAt_none_of_lt hm'.2 (by omega)] at h1
          cases h1
        · exact heq
        · have h1 := h k'
          rw [cellAt, if_neg (by omega), cellAt_none_of_lt hm.2 (by omega), cellAt,
            if_pos rfl] at h1
          cases h1
      subst hkk
      have hv : w = w' := by simpa [cellAt] using h k
      subst hv
      have hrest : rest = rest' := by
        refine ih hm.2 hm'.2 fun a => ?_
        by_cases ha : k = a
        · subst ha
          rw [cellAt_none_of_lt hm.2 (by omega), cellAt_none_of_lt hm'.2 (by omega)]
        · simpa [cellAt, ha] using h a
      rw [hrest]

end Sys2Proof.Machine
end

