-- ==== Sys2Proof/Laws/State.lean ====
section
/-! SUPPORT. One lemma per field per shared update of the state, true by `rfl`, so that no later proof
unfolds a record update. -/

namespace Sys2Proof.Machine

@[simp] theorem emit_cfg (l : Line) (v : Bool) (s : State) : (emit l v s).cfg = s.cfg := rfl
@[simp] theorem emit_run (l : Line) (v : Bool) (s : State) : (emit l v s).run = s.run := rfl
@[simp] theorem emit_scan (l : Line) (v : Bool) (s : State) : (emit l v s).scan = s.scan := rfl
@[simp] theorem emit_shifter (l : Line) (v : Bool) (s : State) : (emit l v s).shifter = s.shifter := rfl
@[simp] theorem emit_tcnt (l : Line) (v : Bool) (s : State) : (emit l v s).tcnt = s.tcnt := rfl
@[simp] theorem emit_irq (l : Line) (v : Bool) (s : State) : (emit l v s).irq = s.irq := rfl
@[simp] theorem emit_enc (l : Line) (v : Bool) (s : State) : (emit l v s).enc = s.enc := rfl
@[simp] theorem emit_host (l : Line) (v : Bool) (s : State) : (emit l v s).host = s.host := rfl
@[simp] theorem emit_faults (l : Line) (v : Bool) (s : State) : (emit l v s).faults = s.faults := rfl
@[simp] theorem emit_refused (l : Line) (v : Bool) (s : State) : (emit l v s).refused = s.refused := rfl
@[simp] theorem emit_pbuf (l : Line) (v : Bool) (s : State) : (emit l v s).pbuf = s.pbuf := rfl
@[simp] theorem emit_frame (l : Line) (v : Bool) (s : State) : (emit l v s).frame = s.frame := rfl
@[simp] theorem emit_outcome (l : Line) (v : Bool) (s : State) : (emit l v s).outcome = s.outcome := rfl
@[simp] theorem emit_sched (l : Line) (v : Bool) (s : State) : (emit l v s).sched = s.sched := rfl
@[simp] theorem emit_events (l : Line) (v : Bool) (s : State) : (emit l v s).events = s.events := rfl

@[simp] theorem emit_lines (l : Line) (v : Bool) (s : State) :
    (emit l v s).lines = setLine s.lines l v := rfl
@[simp] theorem emit_trace (l : Line) (v : Bool) (s : State) :
    (emit l v s).trace = s.trace ++ [.bit l v] := rfl

@[simp] theorem pulse_cfg (l : Line) (s : State) : (pulse l s).cfg = s.cfg := rfl
@[simp] theorem pulse_run (l : Line) (s : State) : (pulse l s).run = s.run := rfl
@[simp] theorem pulse_scan (l : Line) (s : State) : (pulse l s).scan = s.scan := rfl
@[simp] theorem pulse_shifter (l : Line) (s : State) : (pulse l s).shifter = s.shifter := rfl
@[simp] theorem pulse_tcnt (l : Line) (s : State) : (pulse l s).tcnt = s.tcnt := rfl
@[simp] theorem pulse_irq (l : Line) (s : State) : (pulse l s).irq = s.irq := rfl
@[simp] theorem pulse_enc (l : Line) (s : State) : (pulse l s).enc = s.enc := rfl
@[simp] theorem pulse_host (l : Line) (s : State) : (pulse l s).host = s.host := rfl
@[simp] theorem pulse_faults (l : Line) (s : State) : (pulse l s).faults = s.faults := rfl
@[simp] theorem pulse_refused (l : Line) (s : State) : (pulse l s).refused = s.refused := rfl
@[simp] theorem pulse_pbuf (l : Line) (s : State) : (pulse l s).pbuf = s.pbuf := rfl
@[simp] theorem pulse_frame (l : Line) (s : State) : (pulse l s).frame = s.frame := rfl
@[simp] theorem pulse_outcome (l : Line) (s : State) : (pulse l s).outcome = s.outcome := rfl
@[simp] theorem pulse_sched (l : Line) (s : State) : (pulse l s).sched = s.sched := rfl
@[simp] theorem pulse_events (l : Line) (s : State) : (pulse l s).events = s.events := rfl

@[simp] theorem pulse_lines (l : Line) (s : State) :
    (pulse l s).lines = setLine (setLine s.lines l true) l false := rfl
@[simp] theorem pulse_trace (l : Line) (s : State) :
    (pulse l s).trace = s.trace ++ [.bit l true, .bit l false] := by simp [pulse]

@[simp] theorem setRowSel_cfg (r : BitVec 3) (s : State) : (setRowSel r s).cfg = s.cfg := rfl
@[simp] theorem setRowSel_run (r : BitVec 3) (s : State) : (setRowSel r s).run = s.run := rfl
@[simp] theorem setRowSel_scan (r : BitVec 3) (s : State) : (setRowSel r s).scan = s.scan := rfl
@[simp] theorem setRowSel_shifter (r : BitVec 3) (s : State) : (setRowSel r s).shifter = s.shifter := rfl
@[simp] theorem setRowSel_tcnt (r : BitVec 3) (s : State) : (setRowSel r s).tcnt = s.tcnt := rfl
@[simp] theorem setRowSel_irq (r : BitVec 3) (s : State) : (setRowSel r s).irq = s.irq := rfl
@[simp] theorem setRowSel_enc (r : BitVec 3) (s : State) : (setRowSel r s).enc = s.enc := rfl
@[simp] theorem setRowSel_host (r : BitVec 3) (s : State) : (setRowSel r s).host = s.host := rfl
@[simp] theorem setRowSel_faults (r : BitVec 3) (s : State) : (setRowSel r s).faults = s.faults := rfl
@[simp] theorem setRowSel_refused (r : BitVec 3) (s : State) : (setRowSel r s).refused = s.refused := rfl
@[simp] theorem setRowSel_pbuf (r : BitVec 3) (s : State) : (setRowSel r s).pbuf = s.pbuf := rfl
@[simp] theorem setRowSel_frame (r : BitVec 3) (s : State) : (setRowSel r s).frame = s.frame := rfl
@[simp] theorem setRowSel_outcome (r : BitVec 3) (s : State) : (setRowSel r s).outcome = s.outcome := rfl
@[simp] theorem setRowSel_sched (r : BitVec 3) (s : State) : (setRowSel r s).sched = s.sched := rfl
@[simp] theorem setRowSel_events (r : BitVec 3) (s : State) : (setRowSel r s).events = s.events := rfl

@[simp] theorem setRowSel_lines (r : BitVec 3) (s : State) :
    (setRowSel r s).lines = { s.lines with rowsel := selectMask r } := rfl
@[simp] theorem setRowSel_trace (r : BitVec 3) (s : State) :
    (setRowSel r s).trace = s.trace ++ [.rowsel (selectMask r)] := rfl

@[simp] theorem frameWrite_cfg (r c : Nat) (ch : Channel) (v : Elem) (s : State) : (frameWrite r c ch v s).cfg = s.cfg := rfl
@[simp] theorem frameWrite_run (r c : Nat) (ch : Channel) (v : Elem) (s : State) : (frameWrite r c ch v s).run = s.run := rfl
@[simp] theorem frameWrite_scan (r c : Nat) (ch : Channel) (v : Elem) (s : State) : (frameWrite r c ch v s).scan = s.scan := rfl
@[simp] theorem frameWrite_shifter (r c : Nat) (ch : Channel) (v : Elem) (s : State) : (frameWrite r c ch v s).shifter = s.shifter := rfl
@[simp] theorem frameWrite_tcnt (r c : Nat) (ch : Channel) (v : Elem) (s : State) : (frameWrite r c ch v s).tcnt = s.tcnt := rfl
@[simp] theorem frameWrite_irq (r c : Nat) (ch : Channel) (v : Elem) (s : State) : (frameWrite r c ch v s).irq = s.irq := rfl
@[simp] theorem frameWrite_enc (r c : Nat) (ch : Channel) (v : Elem) (s : State) : (frameWrite r c ch v s).enc = s.enc := rfl
@[simp] theorem frameWrite_host (r c : Nat) (ch : Channel) (v : Elem) (s : State) : (frameWrite r c ch v s).host = s.host := rfl
@[simp] theorem frameWrite_lines (r c : Nat) (ch : Channel) (v : Elem) (s : State) : (frameWrite r c ch v s).lines = s.lines := rfl
@[simp] theorem frameWrite_trace (r c : Nat) (ch : Channel) (v : Elem) (s : State) : (frameWrite r c ch v s).trace = s.trace := rfl
@[simp] theorem frameWrite_faults (r c : Nat) (ch : Channel) (v : Elem) (s : State) : (frameWrite r c ch v s).faults = s.faults := rfl
@[simp] theorem frameWrite_refused (r c : Nat) (ch : Channel) (v : Elem) (s : State) : (frameWrite r c ch v s).refused = s.refused := rfl
@[simp] theorem frameWrite_pbuf (r c : Nat) (ch : Channel) (v : Elem) (s : State) : (frameWrite r c ch v s).pbuf = s.pbuf := rfl
@[simp] theorem frameWrite_outcome (r c : Nat) (ch : Channel) (v : Elem) (s : State) : (frameWrite r c ch v s).outcome = s.outcome := rfl
@[simp] theorem frameWrite_sched (r c : Nat) (ch : Channel) (v : Elem) (s : State) : (frameWrite r c ch v s).sched = s.sched := rfl
@[simp] theorem frameWrite_events (r c : Nat) (ch : Channel) (v : Elem) (s : State) : (frameWrite r c ch v s).events = s.events := rfl

@[simp] theorem frameWrite_frame (r c : Nat) (ch : Channel) (v : Elem) (s : State) :
    (frameWrite r c ch v s).frame = putCell s.frame (frameIndex r c ch) v := rfl

@[simp] theorem encodeRequest_cfg (k : Scale) (o : Bool) (s : State) : (encodeRequest k o s).cfg = s.cfg := rfl
@[simp] theorem encodeRequest_run (k : Scale) (o : Bool) (s : State) : (encodeRequest k o s).run = s.run := rfl
@[simp] theorem encodeRequest_scan (k : Scale) (o : Bool) (s : State) : (encodeRequest k o s).scan = s.scan := rfl
@[simp] theorem encodeRequest_shifter (k : Scale) (o : Bool) (s : State) : (encodeRequest k o s).shifter = s.shifter := rfl
@[simp] theorem encodeRequest_tcnt (k : Scale) (o : Bool) (s : State) : (encodeRequest k o s).tcnt = s.tcnt := rfl
@[simp] theorem encodeRequest_irq (k : Scale) (o : Bool) (s : State) : (encodeRequest k o s).irq = s.irq := rfl
@[simp] theorem encodeRequest_host (k : Scale) (o : Bool) (s : State) : (encodeRequest k o s).host = s.host := rfl
@[simp] theorem encodeRequest_lines (k : Scale) (o : Bool) (s : State) : (encodeRequest k o s).lines = s.lines := rfl
@[simp] theorem encodeRequest_trace (k : Scale) (o : Bool) (s : State) : (encodeRequest k o s).trace = s.trace := rfl
@[simp] theorem encodeRequest_faults (k : Scale) (o : Bool) (s : State) : (encodeRequest k o s).faults = s.faults := rfl
@[simp] theorem encodeRequest_refused (k : Scale) (o : Bool) (s : State) : (encodeRequest k o s).refused = s.refused := rfl
@[simp] theorem encodeRequest_pbuf (k : Scale) (o : Bool) (s : State) : (encodeRequest k o s).pbuf = s.pbuf := rfl
@[simp] theorem encodeRequest_frame (k : Scale) (o : Bool) (s : State) : (encodeRequest k o s).frame = s.frame := rfl
@[simp] theorem encodeRequest_outcome (k : Scale) (o : Bool) (s : State) : (encodeRequest k o s).outcome = s.outcome := rfl
@[simp] theorem encodeRequest_sched (k : Scale) (o : Bool) (s : State) : (encodeRequest k o s).sched = s.sched := rfl
@[simp] theorem encodeRequest_events (k : Scale) (o : Bool) (s : State) : (encodeRequest k o s).events = s.events := rfl

@[simp] theorem encodeRequest_enc (k : Scale) (o : Bool) (s : State) :
    (encodeRequest k o s).enc = { busy := true, pos := 0, scale := k, orient := o } := rfl

@[simp] theorem advancePass_cfg (s : State) : (advancePass s).cfg = s.cfg := rfl
@[simp] theorem advancePass_run (s : State) : (advancePass s).run = s.run := rfl
@[simp] theorem advancePass_scan (s : State) : (advancePass s).scan = s.scan := rfl
@[simp] theorem advancePass_shifter (s : State) : (advancePass s).shifter = s.shifter := rfl
@[simp] theorem advancePass_tcnt (s : State) : (advancePass s).tcnt = s.tcnt := rfl
@[simp] theorem advancePass_irq (s : State) : (advancePass s).irq = s.irq := rfl
@[simp] theorem advancePass_host (s : State) : (advancePass s).host = s.host := rfl
@[simp] theorem advancePass_lines (s : State) : (advancePass s).lines = s.lines := rfl
@[simp] theorem advancePass_trace (s : State) : (advancePass s).trace = s.trace := rfl
@[simp] theorem advancePass_faults (s : State) : (advancePass s).faults = s.faults := rfl
@[simp] theorem advancePass_refused (s : State) : (advancePass s).refused = s.refused := rfl
@[simp] theorem advancePass_pbuf (s : State) : (advancePass s).pbuf = s.pbuf := rfl
@[simp] theorem advancePass_frame (s : State) : (advancePass s).frame = s.frame := rfl
@[simp] theorem advancePass_outcome (s : State) : (advancePass s).outcome = s.outcome := rfl
@[simp] theorem advancePass_sched (s : State) : (advancePass s).sched = s.sched := rfl
@[simp] theorem advancePass_events (s : State) : (advancePass s).events = s.events := rfl

@[simp] theorem rowAdvanceHead_cfg (s : State) : (rowAdvanceHead s).cfg = s.cfg := rfl
@[simp] theorem rowAdvanceHead_run (s : State) : (rowAdvanceHead s).run = s.run := rfl
@[simp] theorem rowAdvanceHead_shifter (s : State) : (rowAdvanceHead s).shifter = s.shifter := rfl
@[simp] theorem rowAdvanceHead_tcnt (s : State) : (rowAdvanceHead s).tcnt = s.tcnt := rfl
@[simp] theorem rowAdvanceHead_irq (s : State) : (rowAdvanceHead s).irq = s.irq := rfl
@[simp] theorem rowAdvanceHead_enc (s : State) : (rowAdvanceHead s).enc = s.enc := rfl
@[simp] theorem rowAdvanceHead_host (s : State) : (rowAdvanceHead s).host = s.host := rfl
@[simp] theorem rowAdvanceHead_faults (s : State) : (rowAdvanceHead s).faults = s.faults := rfl
@[simp] theorem rowAdvanceHead_refused (s : State) : (rowAdvanceHead s).refused = s.refused := rfl
@[simp] theorem rowAdvanceHead_pbuf (s : State) : (rowAdvanceHead s).pbuf = s.pbuf := rfl
@[simp] theorem rowAdvanceHead_frame (s : State) : (rowAdvanceHead s).frame = s.frame := rfl
@[simp] theorem rowAdvanceHead_outcome (s : State) : (rowAdvanceHead s).outcome = s.outcome := rfl
@[simp] theorem rowAdvanceHead_sched (s : State) : (rowAdvanceHead s).sched = s.sched := rfl
@[simp] theorem rowAdvanceHead_events (s : State) : (rowAdvanceHead s).events = s.events := rfl

@[simp] theorem rowAdvanceHead_scan (s : State) :
    (rowAdvanceHead s).scan =
      { s.scan with row := s.scan.row + 1#3, cnt := BitVec.ofNat 16 (Config.L - 1) } := rfl
@[simp] theorem rowAdvanceHead_trace (s : State) :
    (rowAdvanceHead s).trace = s.trace ++ [.bit .blank true, .bit .xlat true, .bit .xlat false,
      .rowsel (selectMask s.scan.row)] := by simp [rowAdvanceHead]

@[simp] theorem rowChange_cfg (s : State) : (rowChange s).cfg = s.cfg := rfl
@[simp] theorem rowChange_run (s : State) : (rowChange s).run = s.run := rfl
@[simp] theorem rowChange_shifter (s : State) : (rowChange s).shifter = s.shifter := rfl
@[simp] theorem rowChange_tcnt (s : State) : (rowChange s).tcnt = s.tcnt := rfl
@[simp] theorem rowChange_irq (s : State) : (rowChange s).irq = s.irq := rfl
@[simp] theorem rowChange_enc (s : State) : (rowChange s).enc = s.enc := rfl
@[simp] theorem rowChange_host (s : State) : (rowChange s).host = s.host := rfl
@[simp] theorem rowChange_faults (s : State) : (rowChange s).faults = s.faults := rfl
@[simp] theorem rowChange_refused (s : State) : (rowChange s).refused = s.refused := rfl
@[simp] theorem rowChange_pbuf (s : State) : (rowChange s).pbuf = s.pbuf := rfl
@[simp] theorem rowChange_frame (s : State) : (rowChange s).frame = s.frame := rfl
@[simp] theorem rowChange_outcome (s : State) : (rowChange s).outcome = s.outcome := rfl
@[simp] theorem rowChange_sched (s : State) : (rowChange s).sched = s.sched := rfl
@[simp] theorem rowChange_events (s : State) : (rowChange s).events = s.events := rfl

@[simp] theorem rowChange_scan (s : State) :
    (rowChange s).scan = { s.scan with row := s.scan.row + 1#3, bitIdx := 0, pwm := s.cfg.top } := rfl
@[simp] theorem rowChange_trace (s : State) :
    (rowChange s).trace = s.trace ++ [.bit .xlat true, .bit .xlat false, .bit .blank true,
      .bit .blank false, .rowsel (selectMask (s.scan.row + 1#3))] := by simp [rowChange]

@[simp] theorem timerCount_cfg (s : State) : (timerCount s).cfg = s.cfg := by
  simp only [timerCount]; split <;> rfl
@[simp] theorem timerCount_run (s : State) : (timerCount s).run = s.run := by
  simp only [timerCount]; split <;> rfl
@[simp] theorem timerCount_scan (s : State) : (timerCount s).scan = s.scan := by
  simp only [timerCount]; split <;> rfl
@[simp] theorem timerCount_shifter (s : State) : (timerCount s).shifter = s.shifter := by
  simp only [timerCount]; split <;> rfl
@[simp] theorem timerCount_enc (s : State) : (timerCount s).enc = s.enc := by
  simp only [timerCount]; split <;> rfl
@[simp] theorem timerCount_host (s : State) : (timerCount s).host = s.host := by
  simp only [timerCount]; split <;> rfl
@[simp] theorem timerCount_lines (s : State) : (timerCount s).lines = s.lines := by
  simp only [timerCount]; split <;> rfl
@[simp] theorem timerCount_trace (s : State) : (timerCount s).trace = s.trace := by
  simp only [timerCount]; split <;> rfl
@[simp] theorem timerCount_faults (s : State) : (timerCount s).faults = s.faults := by
  simp only [timerCount]; split <;> rfl
@[simp] theorem timerCount_refused (s : State) : (timerCount s).refused = s.refused := by
  simp only [timerCount]; split <;> rfl
@[simp] theorem timerCount_pbuf (s : State) : (timerCount s).pbuf = s.pbuf := by
  simp only [timerCount]; split <;> rfl
@[simp] theorem timerCount_frame (s : State) : (timerCount s).frame = s.frame := by
  simp only [timerCount]; split <;> rfl
@[simp] theorem timerCount_outcome (s : State) : (timerCount s).outcome = s.outcome := by
  simp only [timerCount]; split <;> rfl
@[simp] theorem timerCount_sched (s : State) : (timerCount s).sched = s.sched := by
  simp only [timerCount]; split <;> rfl
@[simp] theorem timerCount_events (s : State) : (timerCount s).events = s.events := by
  simp only [timerCount]; split <;> rfl

@[simp] theorem shiftRegister_cfg (s : State) : (shiftRegister s).cfg = s.cfg := by
  simp only [shiftRegister]; split <;> rfl
@[simp] theorem shiftRegister_run (s : State) : (shiftRegister s).run = s.run := by
  simp only [shiftRegister]; split <;> rfl
@[simp] theorem shiftRegister_scan (s : State) : (shiftRegister s).scan = s.scan := by
  simp only [shiftRegister]; split <;> rfl
@[simp] theorem shiftRegister_tcnt (s : State) : (shiftRegister s).tcnt = s.tcnt := by
  simp only [shiftRegister]; split <;> rfl
@[simp] theorem shiftRegister_enc (s : State) : (shiftRegister s).enc = s.enc := by
  simp only [shiftRegister]; split <;> rfl
@[simp] theorem shiftRegister_host (s : State) : (shiftRegister s).host = s.host := by
  simp only [shiftRegister]; split <;> rfl
@[simp] theorem shiftRegister_lines (s : State) : (shiftRegister s).lines = s.lines := by
  simp only [shiftRegister]; split <;> rfl
@[simp] theorem shiftRegister_trace (s : State) : (shiftRegister s).trace = s.trace := by
  simp only [shiftRegister]; split <;> rfl
@[simp] theorem shiftRegister_faults (s : State) : (shiftRegister s).faults = s.faults := by
  simp only [shiftRegister]; split <;> rfl
@[simp] theorem shiftRegister_refused (s : State) : (shiftRegister s).refused = s.refused := by
  simp only [shiftRegister]; split <;> rfl
@[simp] theorem shiftRegister_pbuf (s : State) : (shiftRegister s).pbuf = s.pbuf := by
  simp only [shiftRegister]; split <;> rfl
@[simp] theorem shiftRegister_frame (s : State) : (shiftRegister s).frame = s.frame := by
  simp only [shiftRegister]; split <;> rfl
@[simp] theorem shiftRegister_outcome (s : State) : (shiftRegister s).outcome = s.outcome := by
  simp only [shiftRegister]; split <;> rfl
@[simp] theorem shiftRegister_sched (s : State) : (shiftRegister s).sched = s.sched := by
  simp only [shiftRegister]; split <;> rfl
@[simp] theorem shiftRegister_events (s : State) : (shiftRegister s).events = s.events := by
  simp only [shiftRegister]; split <;> rfl

@[simp] theorem loopCount_cfg (s : State) : (loopCount s).cfg = s.cfg := by
  simp only [loopCount]; split <;> rfl
@[simp] theorem loopCount_run (s : State) : (loopCount s).run = s.run := by
  simp only [loopCount]; split <;> rfl
@[simp] theorem loopCount_shifter (s : State) : (loopCount s).shifter = s.shifter := by
  simp only [loopCount]; split <;> rfl
@[simp] theorem loopCount_tcnt (s : State) : (loopCount s).tcnt = s.tcnt := by
  simp only [loopCount]; split <;> rfl
@[simp] theorem loopCount_irq (s : State) : (loopCount s).irq = s.irq := by
  simp only [loopCount]; split <;> rfl
@[simp] theorem loopCount_enc (s : State) : (loopCount s).enc = s.enc := by
  simp only [loopCount]; split <;> rfl
@[simp] theorem loopCount_host (s : State) : (loopCount s).host = s.host := by
  simp only [loopCount]; split <;> rfl
@[simp] theorem loopCount_faults (s : State) : (loopCount s).faults = s.faults := by
  simp only [loopCount]; split <;> rfl
@[simp] theorem loopCount_refused (s : State) : (loopCount s).refused = s.refused := by
  simp only [loopCount]; split <;> rfl
@[simp] theorem loopCount_pbuf (s : State) : (loopCount s).pbuf = s.pbuf := by
  simp only [loopCount]; split <;> rfl
@[simp] theorem loopCount_frame (s : State) : (loopCount s).frame = s.frame := by
  simp only [loopCount]; split <;> rfl
@[simp] theorem loopCount_outcome (s : State) : (loopCount s).outcome = s.outcome := by
  simp only [loopCount]; split <;> rfl
@[simp] theorem loopCount_sched (s : State) : (loopCount s).sched = s.sched := by
  simp only [loopCount]; split <;> rfl
@[simp] theorem loopCount_events (s : State) : (loopCount s).events = s.events := by
  simp only [loopCount]; split <;> rfl

@[simp] theorem takeWord_cfg (s : State) : (takeWord s).cfg = s.cfg := by
  unfold takeWord; split <;> rfl
@[simp] theorem takeWord_run (s : State) : (takeWord s).run = s.run := by
  unfold takeWord; split <;> rfl
@[simp] theorem takeWord_scan (s : State) : (takeWord s).scan = s.scan := by
  unfold takeWord; split <;> rfl
@[simp] theorem takeWord_shifter (s : State) : (takeWord s).shifter = s.shifter := by
  unfold takeWord; split <;> rfl
@[simp] theorem takeWord_tcnt (s : State) : (takeWord s).tcnt = s.tcnt := by
  unfold takeWord; split <;> rfl
@[simp] theorem takeWord_irq (s : State) : (takeWord s).irq = s.irq := by
  unfold takeWord; split <;> rfl
@[simp] theorem takeWord_enc (s : State) : (takeWord s).enc = s.enc := by
  unfold takeWord; split <;> rfl
@[simp] theorem takeWord_host (s : State) : (takeWord s).host = s.host := by
  unfold takeWord; split <;> rfl
@[simp] theorem takeWord_lines (s : State) : (takeWord s).lines = s.lines := by
  unfold takeWord; split <;> rfl
@[simp] theorem takeWord_trace (s : State) : (takeWord s).trace = s.trace := by
  unfold takeWord; split <;> rfl
@[simp] theorem takeWord_faults (s : State) : (takeWord s).faults = s.faults := by
  unfold takeWord; split <;> rfl
@[simp] theorem takeWord_refused (s : State) : (takeWord s).refused = s.refused := by
  unfold takeWord; split <;> rfl
@[simp] theorem takeWord_pbuf (s : State) : (takeWord s).pbuf = s.pbuf := by
  unfold takeWord; split <;> rfl
@[simp] theorem takeWord_frame (s : State) : (takeWord s).frame = s.frame := by
  unfold takeWord; split <;> rfl
@[simp] theorem takeWord_outcome (s : State) : (takeWord s).outcome = s.outcome := by
  unfold takeWord; split <;> rfl

end Sys2Proof.Machine
end

