-- ==== Sys2Proof/Laws/Ops.lean ====
section
/-! SUPPORT. One lemma per shared operation, saying once what it can do. -/

namespace Sys2Proof.Machine

/-! ## Outcomes -/

@[simp] theorem andThen_ok (t : State) (k : State → Attempt) : andThen (.ok t) k = k t := rfl
@[simp] theorem andThen_hold (k : State → Attempt) : andThen .hold k = .hold := rfl
@[simp] theorem andThen_fault (r : Fault) (t : State) (k : State → Attempt) :
    andThen (.fault r t) k = .fault r t := rfl
@[simp] theorem andThen_refuse (r : RefuseReason) (k : State → Attempt) :
    andThen (.refuse r) k = .refuse r := rfl

@[simp] theorem settle_ok (s t : State) : settle s (.ok t) = .next { t with outcome := .ok } := rfl
@[simp] theorem settle_hold (s : State) : settle s .hold = .next { s with outcome := .hold } := rfl
@[simp] theorem settle_fault (s t : State) (r : Fault) :
    settle s (.fault r t) = .next { t with outcome := .fault r } := rfl
@[simp] theorem settle_refuse (s : State) (r : RefuseReason) :
    settle s (.refuse r) = .next { s with refused := true, outcome := .refuse r } := rfl

/-- What a settled step can be: one case per outcome of 00_scope.md R9. -/
theorem settle_cases {s t : State} {a : Attempt} (h : settle s a = .next t) :
    (∃ u, a = .ok u ∧ t = { u with outcome := .ok }) ∨
    (a = .hold ∧ t = { s with outcome := .hold }) ∨
    (∃ r u, a = .fault r u ∧ t = { u with outcome := .fault r }) ∨
    (∃ r, a = .refuse r ∧ t = { s with refused := true, outcome := .refuse r }) := by
  cases a with
  | ok u => exact .inl ⟨u, rfl, by simpa using h.symm⟩
  | hold => exact .inr (.inl ⟨rfl, by simpa using h.symm⟩)
  | fault r u => exact .inr (.inr (.inl ⟨r, u, rfl, by simpa using h.symm⟩))
  | refuse r => exact .inr (.inr (.inr ⟨r, rfl, by simpa using h.symm⟩))

/-! ## Faults -/

/-- Recording a reason never removes one. -/
theorem addFault_keeps (f : FaultSet) (r : Fault) :
    (∀ x, f.txCollision = some x → (addFault f r).txCollision = some x) ∧
      ∀ x, f.bufRange = some x → (addFault f r).bufRange = some x := by
  cases r <;> simp +contextual [addFault]

theorem firstFault_none_iff (f : FaultSet) : firstFault f = none ↔ f = FaultSet.empty := by
  obtain ⟨a, b⟩ := f
  cases a <;> cases b <;> simp [firstFault, FaultSet.empty]

/-! ## Memory accesses -/

theorem memRead_in {s : State} {a : Nat} (h : a < s.cfg.pbufSize) :
    memRead s (a : Int) = some (pbufByte s.pbuf a) := by
  have h' : inPbuf s (a : Int) = true := decide_eq_true ⟨Int.natCast_nonneg a, Int.ofNat_lt.mpr h⟩
  simp only [memRead, h', if_true, Int.toNat_natCast]

theorem memWrite_in {s : State} {a : Nat} (v : Byte) (h : a < s.cfg.pbufSize) :
    memWrite (a : Int) v s = .ok { s with pbuf := putCell s.pbuf a v } := by
  have h' : inPbuf s (a : Int) = true := decide_eq_true ⟨Int.natCast_nonneg a, Int.ofNat_lt.mpr h⟩
  simp only [memWrite, h', if_true, Int.toNat_natCast]

theorem pbufByte_putCell_same (m : List Host.Cell) (a : Nat) (v : Byte) :
    pbufByte (putCell m a v) a = v := by simp [pbufByte, cellAt_putCell_same]

theorem pbufByte_putCell_ne (m : List Host.Cell) {a b : Nat} (v : Byte) (h : b ≠ a) :
    pbufByte (putCell m a v) b = pbufByte m b := by simp [pbufByte, cellAt_putCell_ne m v h]

theorem frameElem_putCell_same (m : List (Nat × Elem)) (a : Nat) (v : Elem) :
    frameElem (putCell m a v) a = v := by simp [frameElem, cellAt_putCell_same]

theorem frameElem_putCell_ne (m : List (Nat × Elem)) {a b : Nat} (v : Elem) (h : b ≠ a) :
    frameElem (putCell m a v) b = frameElem m b := by simp [frameElem, cellAt_putCell_ne m v h]

/-- Distinct elements of the frame have distinct indices. -/
theorem frameIndex_inj {r c r' c' : Nat} {ch ch' : Channel} (hc : c < Config.C) (hc' : c' < Config.C)
    (h : frameIndex r c ch = frameIndex r' c' ch') : r = r' ∧ c = c' ∧ ch = ch' := by
  simp only [Config.C] at hc hc'
  cases ch <;> cases ch' <;> simp only [frameIndex, channelNumber, Config.C] at h <;>
    first
      | (refine ⟨by omega, by omega, rfl⟩)
      | omega

/-! ## The transmit register -/

/-- What a transmit-register write can do (42_scan_isr.md R146). -/
theorem txWrite_cases (v : Byte) (s : State) :
    (s.shifter.txBusy = false ∧
      txWrite v s = .ok { s with shifter := { txBusy := true, shreg := v, shcnt := 0#3 } }) ∨
    (s.shifter.txBusy = true ∧ txWrite v s =
      .fault (.txCollision v) { s with faults := addFault s.faults (.txCollision v) }) := by
  cases h : s.shifter.txBusy
  · exact .inl ⟨rfl, by simp [txWrite, h]⟩
  · exact .inr ⟨rfl, by simp [txWrite, h, raise]⟩

/-- What loading a byte of the buffer into the transmit register can do. -/
theorem txLoad_cases (a : Int) (s : State) :
    (inPbuf s a = true ∧ s.shifter.txBusy = false ∧ txLoad a s =
      .ok { s with shifter := { txBusy := true, shreg := pbufByte s.pbuf a.toNat, shcnt := 0#3 } }) ∨
    (inPbuf s a = true ∧ s.shifter.txBusy = true ∧ txLoad a s =
      .fault (.txCollision (pbufByte s.pbuf a.toNat))
        { s with faults := addFault s.faults (.txCollision (pbufByte s.pbuf a.toNat)) }) ∨
    (inPbuf s a = false ∧ txLoad a s =
      .fault (.bufRange a) { s with faults := addFault s.faults (.bufRange a) }) := by
  cases ha : inPbuf s a
  · exact .inr (.inr ⟨rfl, by simp [txLoad, memRead, ha, raise]⟩)
  · rcases txWrite_cases (pbufByte s.pbuf a.toNat) s with ⟨h, hw⟩ | ⟨h, hw⟩
    · exact .inl ⟨rfl, h, by simp [txLoad, memRead, ha, hw]⟩
    · exact .inr (.inl ⟨rfl, h, by simp [txLoad, memRead, ha, hw]⟩)

/-! ## Addresses -/

/-- In a well-formed build every byte of a packed row is inside the buffer (20_memory.md R61, R64). -/
theorem rowBase_add_lt {c : Config} (hc : c.wf = true) (r : BitVec 3) {k : Nat} (hk : k < Config.L) :
    rowBase c r + k < c.pbufSize := by
  simp only [Config.wf, decide_eq_true_eq] at hc
  have hb : 1 ≤ c.b := hc.2.2.2.1
  have hr : r.toNat % c.b < c.b := Nat.mod_lt _ hb
  simp only [rowBase, Config.pbufSize, Config.L, Config.C] at hk ⊢
  omega

end Sys2Proof.Machine
end

