-- ==== Sys2Proof/Laws/Bodies.lean ====
section
/-! SUPPORT. What each longer body can do, one case per outcome, so that no later proof unfolds one. -/

namespace Sys2Proof.Machine

/-- The Row-Advance handler body (42_scan_isr.md R150). -/
theorem rowAdvance_cases (s : State) :
    (∃ byte, inPbuf s (rowBase s.cfg (s.scan.row + 1#3) : Int) = true ∧ s.shifter.txBusy = false ∧
      byte = pbufByte s.pbuf (rowBase s.cfg (s.scan.row + 1#3)) ∧
      rowAdvance s = .ok (emit .blank false
        { rowAdvanceHead s with shifter := { txBusy := true, shreg := byte, shcnt := 0#3 } })) ∨
    (∃ byte, inPbuf s (rowBase s.cfg (s.scan.row + 1#3) : Int) = true ∧ s.shifter.txBusy = true ∧
      byte = pbufByte s.pbuf (rowBase s.cfg (s.scan.row + 1#3)) ∧
      rowAdvance s = .fault (.txCollision byte)
        { rowAdvanceHead s with faults := addFault s.faults (.txCollision byte) }) ∨
    (∃ addr, inPbuf s addr = false ∧ addr = (rowBase s.cfg (s.scan.row + 1#3) : Int) ∧
      rowAdvance s = .fault (.bufRange addr)
        { rowAdvanceHead s with faults := addFault s.faults (.bufRange addr) }) := by
  have hin : ∀ a, inPbuf (rowAdvanceHead s) a = inPbuf s a := fun _ => rfl
  rcases txLoad_cases (rowBase s.cfg (s.scan.row + 1#3) : Int) (rowAdvanceHead s) with
    ⟨h1, h2, e⟩ | ⟨h1, h2, e⟩ | ⟨h1, e⟩
  · refine .inl ⟨_, h1, h2, rfl, ?_⟩
    simp [rowAdvance, e]
  · refine .inr (.inl ⟨_, h1, h2, rfl, ?_⟩)
    simp [rowAdvance, e]
  · refine .inr (.inr ⟨_, h1, rfl, ?_⟩)
    simp [rowAdvance, e]

/-- The Byte-Complete handler body (42_scan_isr.md R155): the guarded no-op, the last decrement, a byte
loaded, or a fault. -/
theorem byteComplete_cases (s : State) :
    (cntNegative s.scan.cnt = true ∧ byteComplete s = .ok s) ∨
    (cntNegative s.scan.cnt = false ∧ cntNegative (s.scan.cnt - 1#16) = true ∧
      byteComplete s = .ok { s with scan := { s.scan with cnt := s.scan.cnt - 1#16 } }) ∨
    (cntNegative s.scan.cnt = false ∧ cntNegative (s.scan.cnt - 1#16) = false ∧
      ∃ addr byte, addr = nextByteAddr { s with scan := { s.scan with cnt := s.scan.cnt - 1#16 } } ∧
        byte = pbufByte s.pbuf addr.toNat ∧
        ((inPbuf s addr = true ∧ s.shifter.txBusy = false ∧
            byteComplete s = .ok { s with
              scan := { s.scan with cnt := s.scan.cnt - 1#16 },
              shifter := { txBusy := true, shreg := byte, shcnt := 0#3 } }) ∨
          (inPbuf s addr = true ∧ s.shifter.txBusy = true ∧
            byteComplete s = .fault (.txCollision byte) { s with
              scan := { s.scan with cnt := s.scan.cnt - 1#16 },
              faults := addFault s.faults (.txCollision byte) }) ∨
          (inPbuf s addr = false ∧
            byteComplete s = .fault (.bufRange addr) { s with
              scan := { s.scan with cnt := s.scan.cnt - 1#16 },
              faults := addFault s.faults (.bufRange addr) }))) := by
  cases h0 : cntNegative s.scan.cnt
  · cases h1 : cntNegative (s.scan.cnt - 1#16)
    · refine .inr (.inr ⟨rfl, rfl, _, _, rfl, rfl, ?_⟩)
      rcases txLoad_cases (nextByteAddr { s with scan := { s.scan with cnt := s.scan.cnt - 1#16 } })
        { s with scan := { s.scan with cnt := s.scan.cnt - 1#16 } } with
        ⟨h2, h3, e⟩ | ⟨h2, h3, e⟩ | ⟨h2, e⟩
      · exact .inl ⟨h2, h3, by simp [byteComplete, h0, h1, e]⟩
      · exact .inr (.inl ⟨h2, h3, by simp [byteComplete, h0, h1, e]⟩)
      · exact .inr (.inr ⟨h2, by simp [byteComplete, h0, h1, e]⟩)
    · exact .inr (.inl ⟨rfl, rfl, by simp [byteComplete, h0, h1]⟩)
  · exact .inl ⟨rfl, by simp [byteComplete, h0]⟩

/-- The busy loop's bit (43_scan_busyloop.md R171): a bit shifted, none left, or a fault. -/
theorem shiftBit_cases (s : State) :
    (∃ byte, s.scan.bitIdx < Config.NBITS ∧ inPbuf s (bitAddr s) = true ∧
      byte = pbufByte s.pbuf (bitAddr s).toNat ∧
      shiftBit s = .ok
        { pulse .sclk (emit .sin (byte.getLsbD (7 - s.scan.bitIdx % 8)) s) with
            scan := { s.scan with bitIdx := s.scan.bitIdx + 1 } }) ∨
    (Config.NBITS ≤ s.scan.bitIdx ∧ shiftBit s = .ok s) ∨
    (s.scan.bitIdx < Config.NBITS ∧ inPbuf s (bitAddr s) = false ∧
      shiftBit s = .fault (.bufRange (bitAddr s))
        { s with faults := addFault s.faults (.bufRange (bitAddr s)) }) := by
  by_cases hb : s.scan.bitIdx < Config.NBITS
  · cases ha : inPbuf s (bitAddr s)
    · exact .inr (.inr ⟨hb, rfl, by rw [shiftBit, if_pos hb]; simp [memRead, ha, raise]⟩)
    · exact .inl ⟨_, hb, rfl, rfl, by rw [shiftBit, if_pos hb]; simp [memRead, ha]⟩
  · exact .inr (.inl ⟨Nat.le_of_not_lt hb, by rw [shiftBit, if_neg hb]⟩)

/-- A write to the packed buffer (20_memory.md R62). -/
theorem memWrite_cases (a : Int) (v : Byte) (s : State) :
    (inPbuf s a = true ∧ memWrite a v s = .ok { s with pbuf := putCell s.pbuf a.toNat v }) ∨
    (inPbuf s a = false ∧ memWrite a v s =
      .fault (.bufRange a) { s with faults := addFault s.faults (.bufRange a) }) := by
  cases h : inPbuf s a
  · exact .inr ⟨rfl, by simp [memWrite, h, raise]⟩
  · exact .inl ⟨rfl, by simp [memWrite, h]⟩

end Sys2Proof.Machine
end

