-- ==== Sys2Proof/Laws/Events.lean ====
section
/-! SUPPORT. Line writes as appended events: every change of the lines is a `withEvents`. -/

namespace Sys2Proof.Machine

theorem withEvents_nil (s : State) : withEvents s [] = s := by simp [withEvents]

theorem withEvents_append (s : State) (es es' : List LineEvent) :
    withEvents (withEvents s es) es' = withEvents s (es ++ es') := by
  simp [withEvents, List.foldl_append]

theorem emit_eq_withEvents (l : Line) (v : Bool) (s : State) :
    emit l v s = withEvents s [.bit l v] := rfl

theorem pulse_eq_withEvents (l : Line) (s : State) : pulse l s = withEvents s (pulseEvents l) := by
  simp [pulse, emit, withEvents, pulseEvents, applyEvent]

theorem setRowSel_eq_withEvents (r : BitVec 3) (s : State) :
    setRowSel r s = withEvents s [.rowsel (selectMask r)] := rfl

/-- The levels a longer trace leaves are those the added events leave. -/
theorem replay_append (tr es : List LineEvent) : replay (tr ++ es) = es.foldl applyEvent (replay tr) := by
  simp [replay, List.foldl_append]

end Sys2Proof.Machine
end

