-- ==== Sys2Proof/Laws/PerInstr.lean ====
section
/-! SUPPORT. One lemma per constructor for each per-instruction statement. -/

namespace Sys2Proof.Laws

/-- An instruction's word lies in its own row of the opcode map, and the row is one of the map's ten
(30_encoding.md R86). -/
def OpcodeRow.Statement (i : Instr) : Prop :=
  i.opRow.hits (encode i) = true ∧ i.opRow ∈ opcodeTable

theorem OpcodeRow.wrpix (row : BitVec 3) (col : BitVec 4) (ch : Channel) (value : Elem) :
    OpcodeRow.Statement (.wrpix row col ch value) := by
  refine ⟨decide_eq_true ?_, by simp [opcodeTable, Instr.opRow]⟩
  apply BitVec.eq_of_getLsbD_eq
  intro i hi
  cases ch <;> interval_cases i <;>
    simp [Instr.opRow, encode, encodeN, placeBit27, channelBit]

theorem OpcodeRow.encfrm (scale : Scale) (orient : Bool) :
    OpcodeRow.Statement (.encfrm scale orient) := by
  refine ⟨decide_eq_true ?_, by simp [opcodeTable, Instr.opRow]⟩
  apply BitVec.eq_of_getLsbD_eq
  intro i hi
  cases orient <;> interval_cases i <;> simp [Instr.opRow, encode, encodeN, placeBit27]

theorem OpcodeRow.scstep : OpcodeRow.Statement .scstep := by constructor <;> decide
theorem OpcodeRow.start : OpcodeRow.Statement .start := by constructor <;> decide
theorem OpcodeRow.tick : OpcodeRow.Statement .tick := by constructor <;> decide
theorem OpcodeRow.radv : OpcodeRow.Statement .radv := by constructor <;> decide
theorem OpcodeRow.bcmp : OpcodeRow.Statement .bcmp := by constructor <;> decide
theorem OpcodeRow.shbit : OpcodeRow.Statement .shbit := by constructor <;> decide
theorem OpcodeRow.encstep : OpcodeRow.Statement .encstep := by constructor <;> decide
theorem OpcodeRow.blstep : OpcodeRow.Statement .blstep := by constructor <;> decide

end Sys2Proof.Laws
end

