-- ==== Sys2Proof/Laws/Step.lean ====
section
/-! SUPPORT. What `exec` and `step` can answer. -/

namespace Sys2Proof.Machine

/-- The attempt behind each instruction's meaning. -/
def attempt : Instr → State → Attempt
  | .wrpix row col ch value => attemptWrpix row col ch value
  | .encfrm scale orient => attemptEncfrm scale orient
  | .scstep => attemptScstep
  | .start => attemptStart
  | .tick => attemptTick
  | .radv => attemptRadv
  | .bcmp => attemptBcmp
  | .shbit => attemptShbit
  | .encstep => attemptEncstep
  | .blstep => attemptBlstep

/-- The effect of each instruction once it is neither refused nor held. -/
def body : Instr → State → Attempt
  | .wrpix row col ch value, s => .ok (frameWrite row.toNat col.toNat ch value s)
  | .encfrm scale orient, s => .ok (encodeRequest scale orient s)
  | .scstep, s =>
    .ok (encodeRequest (scaleStep s.host).scale (scaleStep s.host).orient
      { s with host := scaleStep s.host })
  | .start, s => .ok { s with run := true }
  | .tick, s => .ok (timerCount (pulse .gsclk s))
  | .radv, s => rowAdvance { s with irq := { s.irq with raPend := false } }
  | .bcmp, s => byteComplete { s with irq := { s.irq with bcPend := false } }
  | .shbit, s =>
    .ok (shiftRegister (pulse .sclk (emit .sin (s.shifter.shreg.getLsbD 7) s)))
  | .encstep, s => andThen (memWrite (s.enc.pos : Int) (nextPacked s) s) fun s => .ok (advancePass s)
  | .blstep, s => andThen (shiftBit s) fun s => .ok (loopCount s)

theorem strategy_cases (st : Strategy) : st = .isr ∨ st = .busy := by
  cases st
  · exact .inl rfl
  · exact .inr rfl

/-- Each meaning is a refusal, a hold, or its body: the conditions of 30_encoding.md R88, 60_exceptions.md
R201 and 93_implementation_defined.md I38 in their order. -/
theorem attempt_eq (i : Instr) (s : State) :
    attempt i s =
      match refusedFor i s with
      | some r => .refuse r
      | none => if heldWhen i s then .hold else body i s := by
  cases i with
  | wrpix row col ch v =>
    have hin : (Instr.wrpix row col ch v).inBuild s.cfg.strat = true := rfl
    simp only [attempt, attemptWrpix, ifBuilt, ifIdle, ifHostFree, heldWhen, refusedFor, body, hin,
      if_true, Instr.agent]
    by_cases hw : (Instr.wrpix row col ch v).wf = true <;> by_cases hb : s.enc.busy = true <;>
      by_cases hc : s.cfg.strat = .busy ∧ s.run = true <;> simp [hw, hb, hc]
  | encfrm scale o =>
    simp only [attempt, attemptEncfrm, ifBuilt, ifIdle, ifHostFree, heldWhen, refusedFor, body,
      Instr.inBuild, Instr.wf, if_true, Instr.agent]
    by_cases hb : s.enc.busy = true <;>
      by_cases hc : s.cfg.strat = .busy ∧ s.run = true <;> simp [hb, hc]
  | scstep =>
    simp only [attempt, attemptScstep, ifBuilt, ifIdle, heldWhen, refusedFor, body, Instr.inBuild,
      Instr.wf, Instr.agent]
    rcases strategy_cases s.cfg.strat with hs | hs <;> by_cases hb : s.enc.busy = true <;>
      simp [hs, hb]
  | start =>
    simp only [attempt, attemptStart, ifBuilt, ifIdle, ifHostFree, heldWhen, refusedFor, body,
      Instr.inBuild, Instr.wf, if_true, Instr.agent]
    rcases strategy_cases s.cfg.strat with hs | hs <;> by_cases hb : s.enc.busy = true <;>
      by_cases hr : s.run = true <;> simp [hs, hb, hr]
  | tick =>
    simp only [attempt, attemptTick, ifBuilt, heldWhen, refusedFor, body, Instr.inBuild, Instr.wf,
      Instr.agent]
    rcases strategy_cases s.cfg.strat with hs | hs <;> by_cases hr : s.run = true <;> simp [hs, hr]
  | shbit =>
    simp only [attempt, attemptShbit, ifBuilt, heldWhen, refusedFor, body, Instr.inBuild, Instr.wf,
      Instr.agent]
    rcases strategy_cases s.cfg.strat with hs | hs <;> by_cases hr : s.shifter.txBusy = true <;>
      simp [hs, hr]
  | radv =>
    simp only [attempt, attemptRadv, ifBuilt, heldWhen, refusedFor, body, Instr.inBuild, Instr.wf,
      Instr.agent]
    rcases strategy_cases s.cfg.strat with hs | hs <;> by_cases hr : s.run = true <;>
      by_cases hp : s.irq.raPend = true <;>
      by_cases ho : s.cfg.irqOrder = .bcFirst ∧ s.irq.bcPend = true <;> simp [hs, hr, hp, ho]
  | bcmp =>
    simp only [attempt, attemptBcmp, ifBuilt, heldWhen, refusedFor, body, Instr.inBuild, Instr.wf,
      Instr.agent]
    rcases strategy_cases s.cfg.strat with hs | hs <;> by_cases hr : s.run = true <;>
      by_cases hp : s.irq.bcPend = true <;>
      by_cases ho : s.cfg.irqOrder = .raFirst ∧ s.irq.raPend = true <;> simp [hs, hr, hp, ho]
  | encstep =>
    simp only [attempt, attemptEncstep, ifBuilt, heldWhen, refusedFor, body, Instr.inBuild, Instr.wf,
      if_true, Instr.agent]
    by_cases hb : s.enc.busy = true <;> simp [hb]
  | blstep =>
    simp only [attempt, attemptBlstep, ifBuilt, heldWhen, refusedFor, body, Instr.inBuild, Instr.wf,
      Instr.agent]
    rcases strategy_cases s.cfg.strat with hs | hs <;> by_cases hr : s.run = true <;> simp [hs, hr]

theorem exec_eq_settle (i : Instr) (s : State) : exec i s = settle s (attempt i s) := by
  cases i <;> rfl

/-- What an instruction that answers a next state did: refused, held, or its body, ending well or in a
fault. -/
theorem exec_cases {i : Instr} {s t : State} (h : exec i s = .next t) :
    (∃ r, refusedFor i s = some r ∧ t = { s with refused := true, outcome := .refuse r }) ∨
    (refusedFor i s = none ∧ heldWhen i s = true ∧ t = { s with outcome := .hold }) ∨
    (refusedFor i s = none ∧ heldWhen i s = false ∧ settle s (body i s) = .next t) := by
  rw [exec_eq_settle, attempt_eq] at h
  cases hr : refusedFor i s with
  | some r => exact .inl ⟨r, rfl, by simpa [hr] using h.symm⟩
  | none =>
    cases hh : heldWhen i s with
    | true => exact .inr (.inl ⟨rfl, rfl, by simpa [hr, hh] using h.symm⟩)
    | false => exact .inr (.inr ⟨rfl, rfl, by simpa [hr, hh] using h⟩)

/-- What every instruction does to a state holds once it holds of a refusal, a hold, and the body of an
enabled word, ending well or in a fault. -/
theorem exec_elim {i : Instr} {s t : State} {P : State → State → Prop} (h : exec i s = .next t)
    (hrefuse : ∀ r, P s { s with refused := true, outcome := .refuse r })
    (hhold : P s { s with outcome := .hold })
    (hok : ∀ u, body i s = .ok u → refusedFor i s = none → heldWhen i s = false →
      P s { u with outcome := .ok })
    (hfault : ∀ r u, body i s = .fault r u → refusedFor i s = none → heldWhen i s = false →
      P s { u with outcome := .fault r }) : P s t := by
  rcases exec_cases h with ⟨r, _, rfl⟩ | ⟨_, _, rfl⟩ | ⟨hr, hh, hb⟩
  · exact hrefuse r
  · exact hhold
  · rcases settle_cases hb with ⟨u, e, rfl⟩ | ⟨_, rfl⟩ | ⟨r, u, e, rfl⟩ | ⟨r, _, rfl⟩
    · exact hok u e hr hh
    · exact hhold
    · exact hfault r u e hr hh
    · exact hrefuse r

/-- A held or refused step is of a word the state does not enable, so a body runs only in its build. -/
theorem inBuild_of_not_refused {i : Instr} {s : State} (h : refusedFor i s = none) :
    i.wf = true ∧ i.inBuild s.cfg.strat = true := by
  unfold refusedFor at h
  split at h
  · cases h
  · split at h
    · cases h
    · rename_i h1 h2
      exact ⟨by simpa using h1, by simpa using h2⟩

/-- Every instruction answers a next state in every state. -/
theorem exec_next (i : Instr) (s : State) : ∃ t, exec i s = .next t :=
  ⟨settled s (attempt i s), exec_eq_settle i s⟩

theorem stopped_none_iff (s : State) :
    stopped s = none ↔ s.cfg.wf = true ∧ s.faults = FaultSet.empty := by
  unfold stopped
  cases h : s.cfg.wf <;> simp [firstFault_none_iff]

/-- A step that answers a next state either executes the decoded word or marks a refused one. -/
theorem step_cases {s t : State} (h : step s = .next t) :
    (s.cfg.wf = true ∧ s.faults = FaultSet.empty) ∧
    ((∃ i, decode (nextWord s) = .ok i ∧ exec i (takeWord s) = .next t) ∨
     (∃ r, decode (nextWord s) = .error r ∧
        t = { takeWord s with refused := true, outcome := .refuse r })) := by
  unfold step at h
  cases hs : stopped s with
  | some o =>
    exfalso
    rw [hs] at h
    simp only at h
    subst h
    unfold stopped at hs
    split at hs
    · cases hf : firstFault s.faults <;> simp [hf] at hs
    · simp at hs
  | none =>
    refine ⟨(stopped_none_iff s).mp hs, ?_⟩
    rw [hs] at h
    cases hd : decode (nextWord s) with
    | ok i => exact .inl ⟨i, rfl, by simpa [hd] using h⟩
    | error r => exact .inr ⟨r, rfl, by simpa [hd] using h.symm⟩

/-- What every instruction does to a state, a step does, where taking the word from the schedule does not
matter. -/
theorem step_elim {s t : State} {P : State → State → Prop} (h : step s = .next t)
    (hexec : ∀ i u v, exec i u = .next v → P u v)
    (hrefuse : ∀ u r, P u { u with refused := true, outcome := .refuse r })
    (htake : P (takeWord s) t → P s t) : P s t := by
  obtain ⟨_, ⟨i, _, he⟩ | ⟨r, _, rfl⟩⟩ := step_cases h
  · exact htake (hexec _ _ _ he)
  · exact htake (hrefuse _ r)

end Sys2Proof.Machine
end

