-- ==== Sys2Proof/Tests/Slice0.lean ====
section
/-! SUPPORT. The model's own tests. Expected values come from 95_test_vectors.md, named at each test, or
from the rule named there. Witnesses of the statements' hypotheses stand at the end. -/

open Sys2Proof Sys2Proof.Machine

namespace Sys2Proof.Tests

/-! ## Helpers -/

/-- One packed row, four ticks a row period, and a three-iteration row window. -/
def isr : Config := { strat := .isr, b := 1, rowPeriod := 4, top := 3, irqOrder := .any }
def busy : Config := { isr with strat := .busy }

/-- Green row 0 = [7,6,5,4,3,2,1,0] and red row 0 all 0 (S1, V-ENC, P1). -/
def frame0 : List (Nat × Elem) :=
  [(0, 7#16), (1, 0#16), (2, 6#16), (3, 0#16), (4, 5#16), (5, 0#16), (6, 4#16), (7, 0#16),
   (8, 3#16), (9, 0#16), (10, 2#16), (11, 0#16), (12, 1#16), (13, 0#16), (14, 0#16), (15, 0#16)]

/-- Green row 0 = [0,1,2,3,4,5,6,7], the column-reversed row (S6). -/
def frameReversed : List (Nat × Elem) :=
  [(0, 0#16), (1, 0#16), (2, 1#16), (3, 0#16), (4, 2#16), (5, 0#16), (6, 3#16), (7, 0#16),
   (8, 4#16), (9, 0#16), (10, 5#16), (11, 0#16), (12, 6#16), (13, 0#16), (14, 7#16), (15, 0#16)]

/-- The packed row of P1. -/
def packed0 : List Byte :=
  [0x37#8, 0x92#8, 0xFA#8, 0x27#8, 0xB1#8, 0xFC#8, 0x17#8, 0xD0#8, 0xFE#8, 0x07#8, 0xF0#8, 0x00#8,
   0#8, 0#8, 0#8, 0#8, 0#8, 0#8, 0#8, 0#8, 0#8, 0#8, 0#8, 0#8]

/-- Bytes at addresses from 0 on. -/
def bytesFrom (a : Nat) : List Byte → List Host.Cell
  | [] => []
  | v :: rest => (a, v) :: bytesFrom (a + 1) rest

/-- A running `ISR` build on P1's memories; `B = 1`, `ROW_PERIOD = 4`. -/
def running : State :=
  { State.resetWith isr with run := true, frame := frame0, pbuf := bytesFrom 0 packed0 }

/-- The same in a `BUSY` build with `TOP = 3`. -/
def looping : State :=
  { State.resetWith busy with run := true, frame := frame0, pbuf := bytesFrom 0 packed0 }

/-- `running` with a Row-Advance pending, as before P2's `RADV`. -/
def raPending : State := { running with irq := { running.irq with raPend := true } }

/-- `running` with a Byte-Complete pending and a given counter; `ROW = 5`. -/
def bcPending (cnt : BitVec 16) : State :=
  { running with scan := { running.scan with row := 5#3, cnt := cnt },
                 irq := { running.irq with bcPend := true } }

/-- A Row-Advance pending beside the last byte's Byte-Complete, as V-STALE before its second `RADV`. -/
def stale : State := { bcPending 0#16 with irq := { raPending.irq with bcPend := true } }

/-- `running` with byte 0x37 in the shifter after `n` bits. -/
def shifting (n : BitVec 3) (byte : Byte) : State :=
  { running with shifter := { txBusy := true, shreg := byte, shcnt := n } }

/-- A pass of `scale` in progress at `pos`, before `START`. -/
def encoding (pos : Nat) (scale : Scale) (orient : Bool) (pbuf : List Host.Cell) : State :=
  { State.resetWith isr with
      frame := frame0, pbuf := pbuf,
      enc := { busy := true, pos := pos, scale := scale, orient := orient } }

/-- The same machine with another handler order. -/
def withOrder (o : IrqOrder) (s : State) : State := { s with cfg := { s.cfg with irqOrder := o } }

/-- The state with one word placed. -/
def placed (w : Word) (s : State) : State := { s with sched := [w] }

/-- What a view of the next state shows, if there is one. -/
def after {α : Type} (view : State → α) (o : Host.Outcome State Fault Refusal) : Option α :=
  match o with
  | .next t => some (view t)
  | .fault _ => none
  | .refused _ => none

/-! ## Well-formedness (30_encoding.md R88 (c)) -/

theorem test_wf_refuses_col_8 : (Instr.wrpix 0#3 8#4 .green 1#16).wf = false := by decide
theorem test_wf_accepts_last_element : (Instr.wrpix 7#3 7#4 .red 0xFFFF#16).wf = true := by decide
/-- `R = 8` fills the 3-bit field, so no row is ever refused. -/
theorem test_wf_every_row (row : BitVec 3) : (Instr.wrpix row 7#4 .green 0#16).wf = true := by
  revert row; decide

/-! ## Decoding (R86, R90, V-REFUSE) -/

theorem test_decode_wrpix : decode 0x10100006#32 = .ok (.wrpix 0#3 1#4 .green 6#16) := by decide
theorem test_decode_wrpix_fields :
    decode 0x1D70ABCD#32 = .ok (.wrpix 5#3 7#4 .red 0xABCD#16) := by decide
theorem test_decode_encfrm : decode 0x2000007F#32 = .ok (.encfrm 127#16 false) := by decide
theorem test_decode_encfrm_orient : decode 0x28000000#32 = .ok (.encfrm 0#16 true) := by decide
theorem test_decode_scstep : decode 0x30000000#32 = .ok .scstep := by decide
theorem test_decode_start : decode 0x40000000#32 = .ok .start := by decide
theorem test_decode_tick : decode 0x80000000#32 = .ok .tick := by decide
theorem test_decode_radv : decode 0x90000000#32 = .ok .radv := by decide
theorem test_decode_bcmp : decode 0xA0000000#32 = .ok .bcmp := by decide
theorem test_decode_shbit : decode 0xB0000000#32 = .ok .shbit := by decide
theorem test_decode_encstep : decode 0xC0000000#32 = .ok .encstep := by decide
theorem test_decode_blstep : decode 0xD0000000#32 = .ok .blstep := by decide
theorem test_decode_reserved_opcodes :
    [0x00000000#32, 0x50000000#32, 0x60000000#32, 0x70000000#32, 0xE0000000#32, 0xF0000000#32].map
      decode = List.replicate 6 (.error .reservedOpc) := by decide
theorem test_decode_reserved_fields :
    [0x30000001#32, 0x10010000#32, 0x20100000#32, 0xD0000001#32].map decode =
      List.replicate 4 (.error .reservedField) := by decide
theorem test_decode_operand_range : decode 0x10800000#32 = .error .operandRange := by decide
theorem test_encode_examples :
    [Instr.wrpix 0#3 1#4 .green 6#16, .wrpix 0#3 7#4 .red 0#16, .encfrm 127#16 true, .shbit].map
      encode = [0x10100006#32, 0x18700000#32, 0x2800007F#32, 0xB0000000#32] := by decide
theorem test_decode_table_word : decodeTableWord 32 0x1D70ABCD = some (.wrpix 5#3 7#4 .red 0xABCD#16) := by
  decide
/-- The opcode map's rows are told apart by their opcode fields (R87). -/
theorem test_table_rows_disjoint :
    opcodeTable.Pairwise (fun r r' => r.pattern.extractLsb 31 28 ≠ r'.pattern.extractLsb 31 28) := by
  decide

/-! ## Assembly (R90) -/

theorem test_asm_wrpix :
    assemble isr ["WRPIX 0, 1, g, 6".toList, "WRPIX 7, 7, r, 0xFFFF".toList] =
      some [0x10100006#32, 0x1F70FFFF#32] := by decide
theorem test_asm_pseudo :
    assemble isr ["ENCFRM 127, 1".toList, "TICKS 3".toList, "BLSTEP".toList] =
      some [0x2800007F#32, 0x80000000#32, 0x80000000#32, 0x80000000#32, 0xD0000000#32] := by decide
theorem test_asm_expansions :
    (shbyte.length, (encrun isr).length, byteTransfers 1, assembleLine isr "NOP".toList) =
      (8, 24, [.shbit, .shbit, .shbit, .shbit, .shbit, .shbit, .shbit, .shbit, .bcmp], none) := by decide

/-! ## The packer (S1, S2, S6, V-PACK, V-ENC) -/

theorem test_pack12_vectors :
    [(0x379#12, 0x2FA#12), (0xABC#12, 0x123#12), (0xFFF#12, 0xFFF#12), (0x001#12, 0x001#12)].map
        (fun p => pack12 p.1 p.2) =
      [(0x37#8, 0x92#8, 0xFA#8), (0xAB#8, 0xC1#8, 0x23#8), (0xFF#8, 0xFF#8, 0xFF#8),
       (0x00#8, 0x10#8, 0x01#8)] := by decide
theorem test_code_vectors :
    [code 7#16 127#16, code 4096#16 1#16, code 0xFFFF#16 0xFFFF#16, code 7#16 510#16, code 9#16 510#16,
     code 123#16 0#16] = [0x379#12, 0x000#12, 0x001#12, 0xDF2#12, 0x1EE#12, 0x000#12] := by decide
theorem test_packed_row :
    (List.range 24).map (fun off => packedByte frame0 0 off 127#16 false) = packed0 := by decide
theorem test_packed_row_mirrored :
    (List.range 12).map (fun off => packedByte frame0 0 off 127#16 true) =
      [0x00#8, 0x00#8, 0x7F#8, 0x0F#8, 0xE1#8, 0x7D#8, 0x1F#8, 0xC2#8, 0x7B#8, 0x2F#8, 0xA3#8, 0x79#8] := by
  decide
theorem test_packed_row_red :
    packedByte [(1, 0xABC#16), (3, 0x123#16)] 0 13 1#16 false = 0xC1#8 := by decide

/-! ## The host's words (V-HOST, V-SC, V-ENC) -/

theorem test_wrpix_writes :
    after (fun t => (frameRead t.frame 0 1 .green, t.outcome))
      (exec (.wrpix 0#3 1#4 .green 6#16) (State.resetWith isr)) = some (6#16, .ok) := by decide
theorem test_wrpix_last_index :
    after (·.frame) (exec (.wrpix 7#3 7#4 .red 0xFFFF#16) (State.resetWith isr)) =
      some [(127, 0xFFFF#16)] := by decide
theorem test_encfrm_latches :
    after (fun t => (t.enc, t.pbuf)) (exec (.encfrm 127#16 false) (State.resetWith isr)) =
      some ({ busy := true, pos := 0, scale := 127#16, orient := false }, []) := by decide
theorem test_encfrm_holds : after (·.outcome) (exec (.encfrm 1#16 true) (encoding 0 127#16 false [])) =
    some .hold := by decide
theorem test_scstep_first :
    after (fun t => (t.host, t.enc.scale, t.enc.orient)) (exec .scstep (State.resetWith isr)) =
      some ({ scale := 2#16, dir := .up, orient := true }, 2#16, true) := by decide
theorem test_scstep_wraps_and_turns :
    [({ scale := 509#16, dir := .up, orient := true } : ScaleState),
     { scale := 3#16, dir := .down, orient := true }, { scale := 0xFFFF#16, dir := .up, orient := false }].map
      scaleStep =
      [{ scale := 510#16, dir := .down, orient := true }, { scale := 2#16, dir := .up, orient := false },
       { scale := 0#16, dir := .up, orient := true }] := by decide
theorem test_start_sets_run :
    after (fun t => (t.run, t.trace)) (exec .start (State.resetWith isr)) = some (true, []) := by decide
theorem test_start_again_refused :
    after (fun t => (t.outcome, t.refused)) (exec .start running) =
      some (.refuse .alreadyRunning, true) := by decide
theorem test_host_consumed :
    after (fun t => (t.outcome, t.frame == frame0)) (exec (.wrpix 0#3 0#4 .green 1#16) looping) =
      some (.refuse .hostConsumed, true) := by decide
theorem test_operand_range_before_hold :
    after (·.outcome) (exec (.wrpix 0#3 8#4 .green 1#16) (encoding 0 127#16 false [])) =
      some (.refuse .operandRange) := by decide

/-! ## `ENCSTEP` (V-ENC) -/

theorem test_encstep_first :
    after (fun t => (pbufByte t.pbuf 0, t.enc.pos, t.enc.busy))
      (exec .encstep (encoding 0 127#16 false [])) = some (0x37#8, 1, true) := by decide
theorem test_encstep_last :
    after (fun t => (t.pbuf, t.enc.pos, t.enc.busy))
      (exec .encstep (encoding 23 127#16 false (bytesFrom 0 (packed0.take 23)))) =
      some (bytesFrom 0 packed0, 24, false) := by decide

/-! ## The interrupt-driven strategy (V-TICK, V-SHBIT, V-RA, V-BC, V-IRQ, P2, P4) -/

theorem test_tick_compare_match :
    after (fun t => (t.tcnt, t.irq.raPend, t.irq.raLost, t.trace)) (exec .tick { running with tcnt := 3 }) =
      some (0, true, false, [.bit .gsclk true, .bit .gsclk false]) := by decide
theorem test_tick_merges :
    after (fun t => (t.irq.raPend, t.irq.raLost)) (exec .tick { raPending with tcnt := 3 }) =
      some (true, true) := by decide
theorem test_shbit_first_bit :
    after (fun t => (t.trace, t.shifter)) (exec .shbit (shifting 0#3 0x37#8)) =
      some ([.bit .sin false, .bit .sclk true, .bit .sclk false],
        { txBusy := true, shreg := 0x6E#8, shcnt := 1#3 }) := by decide
theorem test_shbit_eighth_bit :
    after (fun t => (t.lines.sin, t.shifter.txBusy, t.shifter.shcnt, t.irq.bcPend))
      (exec .shbit (shifting 7#3 0x80#8)) = some (true, false, 0#3, true) := by decide
theorem test_radv_state :
    after (fun t => (t.scan.row, t.scan.cnt, t.shifter, t.irq.raPend)) (exec .radv raPending) =
      some (5#3, 23#16, { txBusy := true, shreg := 0x37#8, shcnt := 0#3 }, false) := by decide
theorem test_radv_trace :
    after (·.trace) (exec .radv raPending) =
      some [.bit .blank true, .bit .xlat true, .bit .xlat false, .rowsel 0xEF#8, .bit .blank false] := by
  decide
theorem test_radv_collision :
    after (fun t => (t.faults, t.lines.blank, t.scan.row, t.scan.cnt, t.shifter))
      (exec .radv { shifting 0#3 0x37#8 with
        irq := { running.irq with raPend := true }, scan := { running.scan with row := 5#3 } }) =
      some ({ txCollision := some 0x37#8, bufRange := none }, true, 6#3, 23#16,
        { txBusy := true, shreg := 0x37#8, shcnt := 0#3 }) := by decide
theorem test_bcmp_loads_byte_1 :
    after (fun t => (t.scan.cnt, t.shifter.shreg)) (exec .bcmp (bcPending 23#16)) =
      some (22#16, 0x92#8) := by decide
theorem test_bcmp_counter_0_and_below :
    [0#16, -1#16].map (fun c => after (fun t => (t.scan.cnt, t.shifter.txBusy, t.outcome))
      (exec .bcmp (bcPending c))) =
      [some (-1#16, false, .ok), some (-1#16, false, .ok)] := by decide
theorem test_order_ra_first :
    after (·.outcome) (exec .bcmp (withOrder .raFirst stale)) = some .hold := by decide
theorem test_order_bc_first :
    after (·.outcome) (exec .radv (withOrder .bcFirst stale)) = some .hold := by decide

/-! ## The busy-loop strategy (V-BL, P3) -/

theorem test_blstep_last_of_window :
    after (fun t => (t.scan, t.lines.rowsel, t.trace))
      (exec .blstep { looping with scan := { looping.scan with pwm := 1, bitIdx := 2 } }) =
      some ({ row := 5#3, cnt := -1#16, bitIdx := 0, pwm := 3 }, 0xDF#8,
        [.bit .sin true, .bit .sclk true, .bit .sclk false, .bit .gsclk true, .bit .gsclk false,
         .bit .xlat true, .bit .xlat false, .bit .blank true, .bit .blank false, .rowsel 0xDF#8]) := by
  decide
theorem test_blstep_no_bit_left :
    after (fun t => (t.scan.bitIdx, t.scan.pwm, t.trace))
      (exec .blstep { looping with scan := { looping.scan with pwm := 5, bitIdx := 192 } }) =
      some (192, 4, [.bit .gsclk true, .bit .gsclk false]) := by decide

/-! ## The step -/

theorem test_step_runs_placed_word :
    after (fun t => (t.run, t.sched, t.outcome)) (step (State.reset.withFetchWord 32 0x40000000)) =
      some (true, [], .ok) := by decide
theorem test_step_held_before_start :
    after (·.outcome) (step (State.reset.withFetchWord 32 0x80000000)) = some .hold := by decide
theorem test_step_other_build_word :
    after (fun t => (t.cfg.strat, t.outcome)) (step (State.reset.withFetchWord 32 0xD0000000)) =
      some (.busy, .hold) := by decide
theorem test_step_wrong_strategy :
    after (·.outcome) (step (placed 0xD0000000#32 State.reset)) =
      some (.refuse .wrongStrategy) := by decide
theorem test_step_lowest_code :
    after (fun t => (t.outcome, t.refused)) (step (placed 0xD0000001#32 State.reset)) =
      some (.refuse .reservedField, true) := by decide
theorem test_step_faulted :
    step { raPending with faults := addFault FaultSet.empty (.txCollision 0x37#8) } =
      .fault (.txCollision 0x37#8) := rfl
theorem test_ill_formed_build : step (State.resetWith { isr with b := 9 }) = .refused .illFormedConfig :=
  rfl
theorem test_first_row_is_4 : State.reset.scan.row = 4#3 ∧ status State.reset = 0#8 := by decide
theorem test_status_bits : status (bcPending 3#16) = 0x04#8 ∧ ctrl looping = 0x03#8 := by decide
/-- Writing an address again leaves one entry, and entries stay in address order. -/
theorem test_memory_canonical :
    putCell (putCell (putCell [] 5 1#8) 3 2#8) 5 4#8 = [(3, 2#8), (5, 4#8)] := by decide

/-! ## Witnesses of the statements' hypotheses

One theorem per statement with hypotheses; each clause at a boundary value. -/

/-- A state with a transfer under way, reached by no reset: three bits of byte 1 of row 5 are out. -/
def midRow : State :=
  { withEvents (shifting 3#3 0x90#8)
      ([.bit .gsclk true, .bit .gsclk false, .bit .xlat true, .bit .xlat false, .rowsel 0xEF#8]) with
      scan := { running.scan with row := 5#3, cnt := 22#16 }, tcnt := 1 }

theorem inv_midRow : Inv midRow := by
  constructor <;> decide

/-- The same with a Row-Advance pending. -/
def midRowRa : State := { midRow with irq := { midRow.irq with raPend := true } }

theorem inv_midRowRa : Inv midRowRa := by
  constructor <;> decide

/-- The same with a Byte-Complete pending at the least counter that loads a byte. -/
def midRowBc : State :=
  { midRow with irq := { midRow.irq with bcPend := true }, scan := { midRow.scan with cnt := 1#16 } }

theorem inv_midRowBc : Inv midRowBc := by
  constructor <;> decide

/-- One row window of `looping` done and one bit of the next: four iterations. -/
def midWindow : State :=
  { withEvents looping
      (bitEvents false ++ pulseEvents .gsclk ++ bitEvents false ++ pulseEvents .gsclk ++
        bitEvents true ++ pulseEvents .gsclk ++ pulseEvents .xlat ++ pulseEvents .blank ++
        [.rowsel 0xDF#8] ++ bitEvents false ++ pulseEvents .gsclk) with
      scan := { looping.scan with row := 5#3, bitIdx := 1, pwm := 2 } }

theorem inv_midWindow : Inv midWindow := by
  constructor <;> decide

/-- A pass with all but its last byte written. -/
def lastByte : State := encoding 23 127#16 false (bytesFrom 0 (packed0.take 23))

theorem inv_lastByte : Inv lastByte := by
  constructor <;> decide

theorem passPrefix_lastByte : PassPrefix lastByte := by
  intro _
  show ∀ a, a < 23 → _
  decide

/-- Placing a word changes nothing the invariant speaks of. -/
theorem inv_placed {s : State} (w : Word) (h : Inv s) : Inv (placed w s) := by
  cases h; constructor <;> assumption

/-! ### Encoding and decoding -/

theorem witness_DecodeEncodeRoundTrip :
    (Instr.wrpix 7#3 7#4 .red 0xFFFF#16).wf = true ∧ (Instr.encfrm 0xFFFF#16 true).wf = true ∧
      Instr.blstep.wf = true := by decide
theorem witness_EncodeDecodeRoundTrip :
    decode 0x1F70FFFF#32 = .ok (.wrpix 7#3 7#4 .red 0xFFFF#16) := by decide
/-- Both sides of each equivalence: no row can fail, so the operand clause is met by a column. -/
theorem witness_DecoderRefusesByLowestCode :
    (decode 0xF0000000#32 = .error .reservedOpc ∧ (opcField 0xF0000000#32).toNat = 0xF) ∧
    (decode 0x10080000#32 = .error .reservedField ∧ reservedP 0x10080000#32 ≠ 0#4) ∧
    (decode 0x24000000#32 = .error .reservedField ∧ reservedE 0x24000000#32 ≠ 0#11) ∧
    (decode 0x38000000#32 = .error .reservedField ∧ reservedN 0x38000000#32 ≠ 0#28) ∧
    (decode 0x10F00000#32 = .error .operandRange ∧ (colField 0x10F00000#32).toNat = 15) := by decide

/-! ### The step -/

theorem witness_StepRunsDecodedWord :
    let s := placed 0x80000000#32 running
    s.cfg.wf = true ∧ s.faults = FaultSet.empty ∧ s.sched = 0x80000000#32 :: [] ∧
      decode 0x80000000#32 = .ok .tick := by decide
theorem witness_StepRunsDecodedWord_nothing_placed :
    running.cfg.wf = true ∧ running.faults = FaultSet.empty ∧ running.sched = [] := by decide
theorem witness_UndecodableWordSetsOnlyRefused :
    let s := placed 0x80000001#32 running
    s.cfg.wf = true ∧ s.faults = FaultSet.empty ∧ s.sched = 0x80000001#32 :: [] ∧
      decode 0x80000001#32 = .error .reservedField := by decide
theorem witness_FaultedStateTakesNoStep :
    let collided := { running with faults := addFault FaultSet.empty (.txCollision 0xFF#8) }
    let ranged := { running with faults := addFault FaultSet.empty (.bufRange (-1)) }
    collided.cfg.wf = true ∧ collided.faults.txCollision = some 0xFF#8 ∧
      ranged.cfg.wf = true ∧ ranged.faults.txCollision = none ∧
      ranged.faults.bufRange = some (-1) := by decide
theorem witness_IllFormedConfigurationRefused :
    (State.resetWith { isr with b := 0 }).cfg.b = 0 ∧
    Config.R < (State.resetWith { isr with b := 9 }).cfg.b ∧
    (State.resetWith { isr with rowPeriod := 0 }).cfg.rowPeriod = 0 ∧
    (State.resetWith { isr with top := 0 }).cfg.top = 0 := by decide
theorem witness_HoldChangesNothing :
    ∃ t, exec .encstep running = .next t ∧ t.outcome = .hold := ⟨_, rfl, rfl⟩
theorem witness_RefusalSetsOnlyRefused :
    ∃ t, exec .start running = .next t ∧ t.outcome = .refuse .alreadyRunning := ⟨_, rfl, rfl⟩
theorem witness_HeldExactlyWhen :
    (∃ t, exec .shbit running = .next t ∧ t.outcome = .hold) ∧
      Instr.shbit.wf = true ∧ Instr.shbit.inBuild running.cfg.strat = true ∧
      heldWhen .shbit running = true := ⟨⟨_, rfl, rfl⟩, rfl, rfl, rfl⟩
theorem witness_RefusedExactlyWhen :
    refusedFor (.wrpix 0#3 8#4 .green 0#16) looping = some .operandRange ∧
    refusedFor .tick looping = some .wrongStrategy ∧
    refusedFor (.encfrm 0#16 false) looping = some .hostConsumed ∧
    refusedFor .start running = some .alreadyRunning := by decide
theorem witness_CollisionExactlyWhen :
    (Inv midRowRa ∧ midRowRa.cfg.strat = .isr ∧ midRowRa.shifter.txBusy = true ∧
      heldWhen .radv midRowRa = false) ∧
    (Inv midRowBc ∧ midRowBc.shifter.txBusy = true ∧ heldWhen .bcmp midRowBc = false ∧
      midRowBc.scan.cnt.toInt = 1) :=
  ⟨⟨inv_midRowRa, rfl, rfl, rfl⟩, inv_midRowBc, rfl, rfl, rfl⟩
theorem witness_FaultsRecordedByOutcome :
    (∃ t, exec .radv midRowRa = .next t ∧ t.outcome = .fault (.txCollision 0x37#8)) ∧
      ∃ t, exec .tick midRow = .next t ∧ t.outcome = .ok := ⟨⟨_, rfl, rfl⟩, _, rfl, rfl⟩

/-! ### The host's words and the packer -/

theorem witness_WrpixWritesOneElement :
    Config.C ≤ (8#4).toNat ∧ (7#3).toNat < Config.R ∧ (7#4).toNat < Config.C ∧
    lastByte.enc.busy = true ∧
    (looping.enc.busy = false ∧ looping.cfg.strat = .busy ∧ looping.run = true) ∧
    (running.enc.busy = false ∧ running.cfg.strat = .isr) ∧
    (State.resetWith busy).enc.busy = false ∧ (State.resetWith busy).run = false := by decide
/-- Another element of the same row, and the other channel of the same column. -/
theorem witness_WrpixWritesOneElement_frame :
    (7 < Config.C ∧ ¬(0 = (0#3).toNat ∧ 7 = (0#4).toNat ∧ Channel.green = .green)) ∧
    (0 < Config.C ∧ ¬(0 = (0#3).toNat ∧ 0 = (0#4).toNat ∧ Channel.red = .green)) := by decide
theorem witness_EncfrmStartsPass :
    lastByte.enc.busy = true ∧
    (looping.enc.busy = false ∧ looping.cfg.strat = .busy ∧ looping.run = true) ∧
    (running.enc.busy = false ∧ running.cfg.strat = .isr) ∧
    (State.resetWith busy).enc.busy = false ∧ (State.resetWith busy).run = false := by decide
/-- The three ranges of the moved scale at their bounds: 2, 3 and 509, 510. -/
theorem witness_ScstepAnimates :
    looping.cfg.strat = .busy ∧ (lastByte.cfg.strat = .isr ∧ lastByte.enc.busy = true) ∧
    (running.cfg.strat = .isr ∧ running.enc.busy = false) ∧
    ([1#16, 2#16, 508#16, 509#16].map fun v =>
      (scaleStep { scale := v, dir := .up, orient := false }).scale.toNat) = [2, 3, 509, 510] := by decide
theorem witness_StartSetsRun :
    lastByte.enc.busy = true ∧
    (looping.enc.busy = false ∧ looping.cfg.strat = .busy ∧ looping.run = true) ∧
    (running.enc.busy = false ∧ running.cfg.strat = .isr ∧ running.run = true) ∧
    (State.reset.enc.busy = false ∧ State.reset.run = false) := by decide
theorem witness_EncstepWritesNextByte :
    running.enc.busy = false ∧ (lastByte.enc.busy = true ∧ lastByte.enc.pos < lastByte.cfg.pbufSize) ∧
      (0 : Nat) ≠ lastByte.enc.pos := by decide
theorem witness_CodeWrapsModulo4096 : 12 ≤ 12 ∧ 12 ≤ 32 := by decide
theorem witness_PackedRowLayout : 3 < Config.NPAIR ∧ 0 < Config.NPAIR ∧ 2 < 3 ∧ 0 < 3 := by decide
theorem witness_MirroringIsColumnReversal :
    (∀ c ch, c < Config.C →
      frameRead frameReversed 0 c ch = frameRead frame0 0 (Config.C - 1 - c) ch) ∧ 23 < Config.L := by
  refine ⟨?_, by decide⟩
  intro c ch hc
  have h : ∀ c : Fin 8, ∀ b : Bool, frameRead frameReversed 0 c (channelOf b) =
      frameRead frame0 0 (Config.C - 1 - c) (channelOf b) := by decide
  cases ch
  · exact h ⟨c, hc⟩ false
  · exact h ⟨c, hc⟩ true
/-- Frames that differ in another row. -/
theorem witness_PackedRowReadsItsFrameRow :
    (∀ c ch, c < Config.C → frameRead (frame0 ++ [(127, 5#16)]) 0 c ch = frameRead frame0 0 c ch) ∧
      23 < Config.L := by
  refine ⟨?_, by decide⟩
  intro c ch hc
  have h : ∀ c : Fin 8, ∀ b : Bool, frameRead (frame0 ++ [(127, 5#16)]) 0 c (channelOf b) =
      frameRead frame0 0 c (channelOf b) := by decide
  cases ch
  · exact h ⟨c, hc⟩ false
  · exact h ⟨c, hc⟩ true
theorem witness_StepKeepsPassPrefix :
    let s := placed 0xC0000000#32 lastByte
    Inv s ∧ PassPrefix s ∧ ∃ t, step s = .next t :=
  ⟨inv_placed _ inv_lastByte, passPrefix_lastByte, _, rfl⟩

theorem witness_CompletedPassEncodesFrame :
    let s := placed 0xC0000000#32 lastByte
    Inv s ∧ PassPrefix s ∧ ∃ t, step s = .next t ∧ s.enc.busy = true ∧ t.enc.busy = false :=
  ⟨inv_placed _ inv_lastByte, passPrefix_lastByte, _, rfl, rfl, rfl⟩

/-! ### The interrupt-driven strategy -/

theorem witness_TickCountsAndRequests :
    looping.cfg.strat = .busy ∧ (lastByte.cfg.strat = .isr ∧ lastByte.run = false) ∧
    (let s := { running with tcnt := 3 }
     s.cfg.strat = .isr ∧ s.run = true ∧ s.tcnt + 1 = s.cfg.rowPeriod) ∧
    (running.cfg.strat = .isr ∧ running.run = true ∧ running.tcnt + 1 ≠ running.cfg.rowPeriod) := by decide
theorem witness_ShbitShiftsOneBit :
    looping.cfg.strat = .busy ∧ (running.cfg.strat = .isr ∧ running.shifter.txBusy = false) ∧
    (let s := shifting 7#3 0x80#8
     s.cfg.strat = .isr ∧ s.shifter.txBusy = true ∧ s.shifter.shcnt = 7#3) ∧
    (let s := shifting 6#3 0x80#8
     s.cfg.strat = .isr ∧ s.shifter.txBusy = true ∧ s.shifter.shcnt ≠ 7#3) := by decide
theorem witness_RadvAdvancesRow :
    looping.cfg.strat = .busy ∧ (running.cfg.strat = .isr ∧ running.irq.raPend = false) ∧
    (∀ s ∈ [raPending, midRowRa], s.cfg.wf = true ∧ s.cfg.strat = .isr ∧ s.run = true ∧
      s.irq.raPend = true ∧ (s.cfg.irqOrder = .bcFirst → s.irq.bcPend = false)) ∧
    raPending.shifter.txBusy = false ∧ midRowRa.shifter.txBusy = true := by decide
/-- The hold under `BC_FIRST`, and the handler enabled under it. -/
theorem witness_RadvAdvancesRow_order :
    (let s := withOrder .bcFirst stale
     s.cfg.irqOrder = .bcFirst ∧ s.irq.bcPend = true) ∧
    (let s := withOrder .bcFirst raPending
     s.cfg.irqOrder = .bcFirst ∧ s.irq.bcPend = false ∧ s.irq.raPend = true) := by decide
theorem witness_BcmpLoadsNextByte :
    looping.cfg.strat = .busy ∧ (running.cfg.strat = .isr ∧ running.irq.bcPend = false) ∧
    (∀ s ∈ [bcPending (-1#16), bcPending 0#16, bcPending 1#16, bcPending 23#16, midRowBc],
      s.cfg.wf = true ∧ s.cfg.strat = .isr ∧ s.run = true ∧ s.irq.bcPend = true ∧
      (s.cfg.irqOrder = .raFirst → s.irq.raPend = false)) ∧
    (bcPending (-1#16)).scan.cnt.toInt < 0 ∧ (bcPending 0#16).scan.cnt = 0#16 ∧
    (bcPending 1#16).scan.cnt = BitVec.ofNat 16 1 ∧ (bcPending 1#16).shifter.txBusy = false ∧
    (bcPending 23#16).scan.cnt = BitVec.ofNat 16 23 ∧ 23 < Config.L ∧
    midRowBc.scan.cnt = BitVec.ofNat 16 1 ∧ midRowBc.shifter.txBusy = true := by decide
theorem witness_PendingHandlersFollowOrder :
    let s := { bcPending 23#16 with irq := { raPending.irq with bcPend := true } }
    (s.cfg.strat = .isr ∧ s.run = true ∧ s.irq.raPend = true ∧ s.irq.bcPend = true) ∧
    (withOrder .raFirst s).cfg.irqOrder = .raFirst ∧ (withOrder .bcFirst s).cfg.irqOrder = .bcFirst ∧
    s.cfg.irqOrder = .any := by decide
theorem witness_HandlersKeepMainContext :
    Instr.radv.agent = .irq ∧ Instr.bcmp.agent = .irq ∧
      (∃ t, exec .radv raPending = .next t) ∧ ∃ t, exec .bcmp (bcPending 23#16) = .next t :=
  ⟨rfl, rfl, ⟨_, rfl⟩, _, rfl⟩
/-- With no Byte-Complete pending, also under `BC_FIRST`, and with a stale one under `ANY`. -/
theorem witness_RowTransferShiftsRowInOrder :
    (∀ s ∈ [raPending, withOrder .bcFirst raPending, stale],
      s.cfg.wf = true ∧ s.faults = FaultSet.empty ∧ s.cfg.strat = .isr ∧ s.run = true ∧
      s.irq.raPend = true ∧ (s.cfg.irqOrder = .bcFirst → s.irq.bcPend = false) ∧
      s.shifter.txBusy = false) ∧
    stale.irq.bcPend = true ∧ 0 ≤ Config.L ∧ 24 ≤ Config.L ∧ 23 < Config.L := by decide
theorem tick_not_in_transfers (n : Nat) : .tick ∉ byteTransfers n := by
  intro h
  obtain ⟨l, hl, h⟩ := List.mem_flatten.mp h
  rw [List.eq_of_mem_replicate hl] at h
  revert h; decide
theorem filter_transfers (n : Nat) :
    (byteTransfers n).filter (fun i => decide (i ≠ .tick)) = byteTransfers n :=
  List.filter_eq_self.mpr fun _ hi => decide_eq_true fun h => tick_not_in_transfers n (h ▸ hi)
/-- A tick among the transfer's steps; under `RA_FIRST`, the transfer with none; each with no Byte-Complete
pending and with a stale one. -/
theorem witness_RowTransferIgnoresTicks :
    (∀ s ∈ [raPending, withOrder .bcFirst raPending, stale, withOrder .raFirst stale],
      s.cfg.wf = true ∧ s.faults = FaultSet.empty ∧ s.cfg.strat = .isr ∧ s.run = true ∧
      s.irq.raPend = true ∧ (s.cfg.irqOrder = .bcFirst → s.irq.bcPend = false) ∧
      s.shifter.txBusy = false) ∧
    ((.tick :: byteTransfers Config.L).filter (fun i => decide (i ≠ .tick)) = byteTransfers Config.L ∧
      raPending.cfg.irqOrder ≠ .raFirst ∧ stale.cfg.irqOrder ≠ .raFirst ∧ stale.irq.bcPend = true) ∧
    (byteTransfers Config.L).filter (fun i => decide (i ≠ .tick)) = byteTransfers Config.L ∧
    ((withOrder .raFirst stale).cfg.irqOrder = .raFirst → ∀ before after,
      byteTransfers Config.L = before ++ .bcmp :: after →
      (withOrder .raFirst stale).tcnt + before.count .tick < (withOrder .raFirst stale).cfg.rowPeriod) := by
  refine ⟨by decide, ⟨filter_transfers _, by decide, by decide, rfl⟩, filter_transfers _,
    fun _ before after h => ?_⟩
  have hn : .tick ∉ before := fun hm => tick_not_in_transfers _ (h ▸ List.mem_append_left _ hm)
  rw [List.count_eq_zero.mpr hn]
  decide
/-- Under both orders that take the Row-Advance first, and (a) at the first and the last bit of byte 0. -/
theorem witness_StaleByteComplete :
    (∀ s ∈ [stale, withOrder .raFirst stale],
      s.cfg.wf = true ∧ s.faults = FaultSet.empty ∧ s.cfg.strat = .isr ∧ s.run = true ∧
      s.irq.raPend = true ∧ s.irq.bcPend = true ∧ s.shifter.txBusy = false ∧
      s.cfg.irqOrder ≠ .bcFirst) ∧ 0 < 8 ∧ 7 < 8 := by decide

/-! ### The busy-loop strategy -/

theorem witness_BlstepIteratesLoop :
    running.cfg.strat = .isr ∧
    ((State.resetWith busy).cfg.strat = .busy ∧ (State.resetWith busy).run = false) ∧
    (looping.cfg.wf = true ∧ looping.cfg.strat = .busy ∧ looping.run = true ∧
      1 ≤ looping.scan.pwm ∧ looping.scan.pwm ≠ 1) := by decide
/-- The last bit of a row, no bit left, and the last iteration of a window. -/
theorem witness_BlstepIteratesLoop_bounds :
    let last := { looping with scan := { looping.scan with bitIdx := 191, pwm := 1 } }
    let none_ := { looping with scan := { looping.scan with bitIdx := 192, pwm := 2 } }
    last.scan.bitIdx < Config.NBITS ∧ last.scan.pwm = 1 ∧ Config.NBITS ≤ none_.scan.bitIdx ∧
      none_.scan.pwm ≠ 1 := by decide
theorem witness_BusyBuildHasNoInterruptState :
    let s := placed 0xD0000000#32 midWindow
    s.cfg.strat = .busy ∧ ∃ t, step s = .next t := ⟨rfl, _, rfl⟩

theorem witness_IsrBuildKeepsLoopCursors :
    let s := placed 0xB0000000#32 midRow
    s.cfg.strat = .isr ∧ ∃ t, step s = .next t := ⟨rfl, _, rfl⟩

/-! ### Rules about the whole machine -/

theorem witness_MemoriesHaveOneWriter :
    (Instr.wrpix 0#3 0#4 .green 1#16 ≠ .encstep ∧
      ∃ t, exec (.wrpix 0#3 0#4 .green 1#16) running = .next t) ∧
    (∀ row col ch v, Instr.encstep ≠ .wrpix row col ch v) ∧ ∃ t, exec .encstep lastByte = .next t :=
  ⟨⟨by decide, _, rfl⟩, by simp, _, rfl⟩
theorem witness_HostStateHasOneWriter :
    Instr.radv ≠ .scstep ∧ Instr.radv ≠ .start ∧ raPending.run = true ∧
      ∃ t, exec .radv raPending = .next t := ⟨by decide, by decide, rfl, _, rfl⟩
theorem witness_PendingBitsHaveOneSource :
    (∃ t, exec .tick { running with tcnt := 3 } = .next t ∧ running.irq.raPend = false ∧
      t.irq.raPend = true) ∧
    (∃ t, exec .radv raPending = .next t ∧ raPending.irq.raPend = true ∧ t.irq.raPend = false) ∧
    (∃ t, exec .shbit (shifting 7#3 0#8) = .next t ∧ (shifting 7#3 0#8).irq.bcPend = false ∧
      t.irq.bcPend = true) ∧
    ∃ t, exec .bcmp (bcPending 0#16) = .next t ∧ (bcPending 0#16).irq.bcPend = true ∧
      t.irq.bcPend = false :=
  ⟨⟨_, rfl, rfl, rfl⟩, ⟨_, rfl, rfl, rfl⟩, ⟨_, rfl, rfl, rfl⟩, _, rfl, rfl, rfl⟩
theorem witness_TransmitRegisterHasTwoWriters :
    (∃ t, exec .radv raPending = .next t ∧ raPending.shifter.txBusy = false ∧
      t.shifter.txBusy = true) ∧
    (∃ t, exec .shbit (shifting 7#3 0#8) = .next t ∧ (shifting 7#3 0#8).shifter.txBusy = true ∧
      t.shifter.txBusy = false) ∧
    Instr.tick.agent ≠ .irq ∧ Instr.tick ≠ .shbit ∧ ∃ t, exec .tick midRow = .next t :=
  ⟨⟨_, rfl, rfl, rfl⟩, ⟨_, rfl, rfl, rfl⟩, by decide, by decide, _, rfl⟩
theorem witness_StickyMarksStay :
    let s := { running with refused := true,
                            irq := { running.irq with raLost := true, bcLost := true },
                            faults := { txCollision := some 0xFF#8, bufRange := some (-1) } }
    s.irq.raLost = true ∧ s.irq.bcLost = true ∧ s.refused = true ∧
      s.faults.txCollision = some 0xFF#8 ∧ s.faults.bufRange = some (-1) ∧
      ∃ t, exec .tick s = .next t :=
  ⟨rfl, rfl, rfl, rfl, rfl, _, rfl⟩
theorem witness_TraceOnlyGrows : ∃ t, step (placed 0xD0000000#32 midWindow) = .next t := ⟨_, rfl⟩
theorem witness_StatusRegistersShowTheirFields : 2 ≤ 2 ∧ 2 ≤ 7 := by decide

/-! ### Reset and invariants -/

theorem witness_ResetMemoriesHoldDraws :
    7 < Config.C ∧ 0 < Config.C ∧ frameIndex 7 7 .red = frameIndex 7 7 .red := by decide
theorem witness_ResetMeetsInv :
    Config.nominal.wf = true ∧ isr.wf = true ∧ busy.wf = true ∧
      ({ busy with b := 8, rowPeriod := 1, top := 1 } : Config).wf = true := by decide
theorem witness_StepKeepsInv :
    (let s := placed 0xB0000000#32 midRow
     Inv s ∧ ∃ t, step s = .next t) ∧
    (let s := placed 0xD0000000#32 midWindow
     Inv s ∧ ∃ t, step s = .next t) :=
  ⟨⟨inv_placed _ inv_midRow, _, rfl⟩, inv_placed _ inv_midWindow, _, rfl⟩

theorem witness_StepKeepsRowCycleOrder :
    (let s := placed 0x90000000#32 midRowRa
     RowCycleOrder s ∧ ∃ t, step s = .next t) ∧
    (let s := placed 0xD0000000#32 midWindow
     RowCycleOrder s ∧ ∃ t, step s = .next t) :=
  ⟨⟨by constructor <;> decide, _, rfl⟩, by constructor <;> decide, _, rfl⟩

theorem witness_StepKeepsTimerCount :
    let s := placed 0x80000000#32 midRow
    TimerCountsPulses s ∧ s.cfg.strat = .isr ∧ ∃ t, step s = .next t := ⟨by intro _; decide, rfl, _, rfl⟩

theorem witness_StepKeepsWindowCounts :
    let s := placed 0xD0000000#32 midWindow
    Inv s ∧ WindowCounts s ∧ s.cfg.strat = .busy ∧ ∃ t, step s = .next t :=
  ⟨inv_placed _ inv_midWindow, by intro _; decide, rfl, _, rfl⟩

/-- Both directions, each at the last value before the bound turns it. -/
theorem witness_StepKeepsScaleInBounds :
    (let s := placed 0x30000000#32 { running with host := { scale := 509#16, dir := .up, orient := true } }
     ScaleInBounds s ∧ ∃ t, step s = .next t) ∧
    (let s := placed 0x30000000#32 { running with host := { scale := 3#16, dir := .down, orient := true } }
     ScaleInBounds s ∧ ∃ t, step s = .next t) :=
  ⟨⟨by show 1 ≤ _ ∧ _ < _; decide, _, rfl⟩, by show _ < _ ∧ _ ≤ _; decide, _, rfl⟩
theorem witness_EveryRunMeetsInvariants :
    busy.wf = true ∧ ∃ t, runFor 2
      { State.resetWith busy with sched := [0x40000000#32, 0xD0000000#32] } = .next t := ⟨rfl, _, rfl⟩

end Sys2Proof.Tests
end

/-! Proofs of the statements of 00_scope.md: how a configuration is refused (R5), what a hold leaves (R9), and
that the trace only grows and takes the lines with it (R10). -/

namespace Sys2Proof.Machine

/-! ## An ill-formed configuration (R5) -/

theorem wf_eq_false_of_openParameter {c : Config}
    (h : c.b = 0 ∨ Config.R < c.b ∨ c.rowPeriod = 0 ∨ c.top = 0) : c.wf = false := by
  refine decide_eq_false fun ⟨_, _, _, hbLow, hbHigh, _, hPeriod, hTop, _⟩ => ?_
  rcases h with h | h | h | h <;> omega

theorem stopped_of_cfg_illFormed {s : State} (h : s.cfg.wf = false) :
    stopped s = some (.refused .illFormedConfig) := by simp [stopped, h]

theorem step_of_stopped {s : State} {o : Host.Outcome State Fault Refusal} (h : stopped s = some o) :
    step s = o := by simp [step, h]

/-- Settles O9: the configuration is not well formed, and that stops the machine before it takes a word. -/
theorem illFormedConfigurationRefused : Obligations.IllFormedConfigurationRefused := by
  intro s h
  exact step_of_stopped (stopped_of_cfg_illFormed (wf_eq_false_of_openParameter h))

/-! ## A hold (R9) -/

/-- Settles O10: only a hold reports `hold`, since the other three ways a step ends report their own outcome. -/
theorem holdChangesNothing : Obligations.HoldChangesNothing := by
  intro i s t hexec
  refine exec_elim (P := fun s t => t.outcome = .hold → t = { s with outcome := .hold }) hexec
    ?hrefuse ?hhold ?hok ?hfault
  case hrefuse => intro r h; cases h
  case hhold => intro _; rfl
  case hok => intro u _ _ _ h; cases h
  case hfault => intro r u _ _ _ h; cases h

/-! ## Appended events (R10) -/

/-- `t` comes after `s` by some further line events: the trace has them appended, and the lines are as they leave
them. Every other field is free. -/
def AppendsEvents (s t : State) : Prop :=
  ∃ es, t.trace = s.trace ++ es ∧ t.lines = es.foldl applyEvent s.lines

namespace AppendsEvents

theorem of_same {s t : State} (htrace : t.trace = s.trace) (hlines : t.lines = s.lines) :
    AppendsEvents s t := ⟨[], by simp [htrace], by simp [hlines]⟩

theorem trans {s t u : State} (hst : AppendsEvents s t) (htu : AppendsEvents t u) :
    AppendsEvents s u := by
  obtain ⟨es, htrace, hlines⟩ := hst
  obtain ⟨es', htrace', hlines'⟩ := htu
  exact ⟨es ++ es', by simp [htrace', htrace], by simp [hlines', hlines]⟩

theorem withEvents (s : State) (es : List LineEvent) : AppendsEvents s (withEvents s es) := ⟨es, rfl, rfl⟩

theorem emit (l : Line) (v : Bool) (s : State) : AppendsEvents s (emit l v s) := withEvents s [.bit l v]

theorem pulse (l : Line) (s : State) : AppendsEvents s (pulse l s) :=
  (emit l true s).trans (emit l false _)

theorem setRowSel (r : BitVec 3) (s : State) : AppendsEvents s (setRowSel r s) :=
  withEvents s [.rowsel (selectMask r)]

/-- A bit on the data line, then a clock pulse, as both strategies shift it (42_scan_isr.md R145). -/
theorem shiftedBit (v : Bool) (s : State) :
    AppendsEvents s (Machine.pulse .sclk (Machine.emit .sin v s)) := (emit .sin v s).trans (pulse .sclk _)

theorem rowAdvanceHead (s : State) : AppendsEvents s (rowAdvanceHead s) :=
  ((emit .blank true s).trans (pulse .xlat _)).trans (setRowSel s.scan.row _)

theorem rowChange (s : State) : AppendsEvents s (rowChange s) :=
  ((pulse .xlat s).trans (pulse .blank _)).trans (setRowSel (s.scan.row + 1#3) _)

theorem loopCount (s : State) : AppendsEvents s (loopCount s) := by
  have hcount : AppendsEvents s
      { Machine.pulse .gsclk s with scan := { s.scan with pwm := s.scan.pwm - 1 } } :=
    (pulse .gsclk s).trans (of_same rfl rfl)
  simp only [Machine.loopCount]
  split
  · exact hcount.trans (rowChange _)
  · exact hcount

/-! An attempt, as the state a step that ends with it leaves. -/

/-- The events before an attempt and those it appends, in a row. -/
theorem trans_settled {s t : State} {a : Attempt} (hst : AppendsEvents s t)
    (ha : AppendsEvents t (settled t a)) : AppendsEvents s (settled s a) := by
  cases a with
  | ok u => exact hst.trans ha
  | hold => exact of_same rfl rfl
  | fault r u => exact hst.trans ha
  | refuse r => exact of_same rfl rfl

theorem settled_andThen {s : State} {a : Attempt} {k : State → Attempt}
    (ha : AppendsEvents s (settled s a)) (hk : ∀ t, AppendsEvents t (settled t (k t))) :
    AppendsEvents s (settled s (andThen a k)) := by
  cases a with
  | ok t => exact trans_settled ha (hk t)
  | hold => exact ha
  | fault r t => exact ha
  | refuse r => exact ha

theorem memWrite (addr : Int) (v : Byte) (s : State) : AppendsEvents s (settled s (memWrite addr v s)) := by
  rcases memWrite_cases addr v s with ⟨_, e⟩ | ⟨_, e⟩ <;> rw [e] <;> exact of_same rfl rfl

theorem txLoad (addr : Int) (s : State) : AppendsEvents s (settled s (txLoad addr s)) := by
  rcases txLoad_cases addr s with ⟨_, _, e⟩ | ⟨_, _, e⟩ | ⟨_, e⟩ <;> rw [e] <;> exact of_same rfl rfl

theorem shiftBit (s : State) : AppendsEvents s (settled s (shiftBit s)) := by
  rcases shiftBit_cases s with ⟨byte, _, _, _, e⟩ | ⟨_, e⟩ | ⟨_, _, e⟩ <;> rw [e]
  · exact (shiftedBit _ s).trans (of_same rfl rfl)
  · exact of_same rfl rfl
  · exact of_same rfl rfl

theorem rowAdvance (s : State) : AppendsEvents s (settled s (rowAdvance s)) :=
  trans_settled (rowAdvanceHead s) (settled_andThen (txLoad _ _) fun t => emit .blank false t)

theorem byteComplete (s : State) : AppendsEvents s (settled s (byteComplete s)) := by
  rcases byteComplete_cases s with ⟨_, e⟩ | ⟨_, _, e⟩ |
    ⟨_, _, addr, byte, _, _, ⟨_, _, e⟩ | ⟨_, _, e⟩ | ⟨_, e⟩⟩ <;> rw [e] <;> exact of_same rfl rfl

theorem body (i : Instr) (s : State) : AppendsEvents s (settled s (body i s)) := by
  cases i with
  | wrpix row col ch value => exact of_same rfl rfl
  | encfrm scale orient => exact of_same rfl rfl
  | scstep => exact of_same rfl rfl
  | start => exact of_same rfl rfl
  | tick => exact (pulse .gsclk s).trans (of_same (timerCount_trace _) (timerCount_lines _))
  | radv =>
    exact trans_settled (t := { s with irq := { s.irq with raPend := false } }) (of_same rfl rfl)
      (rowAdvance _)
  | bcmp =>
    exact trans_settled (t := { s with irq := { s.irq with bcPend := false } }) (of_same rfl rfl)
      (byteComplete _)
  | shbit => exact (shiftedBit _ s).trans (of_same (shiftRegister_trace _) (shiftRegister_lines _))
  | encstep => exact settled_andThen (memWrite _ _ s) fun _ => of_same rfl rfl
  | blstep => exact settled_andThen (shiftBit s) loopCount

theorem exec {i : Instr} {s t : State} (h : exec i s = .next t) : AppendsEvents s t := by
  rcases exec_cases h with ⟨r, _, rfl⟩ | ⟨_, _, rfl⟩ | ⟨_, _, hbody⟩
  · exact of_same rfl rfl
  · exact of_same rfl rfl
  · cases hbody
    exact body i s

end AppendsEvents

/-- Settles O45: taking a word moves neither trace nor lines, and every instruction only appends events. -/
theorem traceOnlyGrows : Obligations.TraceOnlyGrows := by
  intro s t h
  refine step_elim (P := AppendsEvents) h (fun _ _ _ => AppendsEvents.exec)
    (fun _ _ => .of_same rfl rfl) fun htaken => ?_
  exact (AppendsEvents.of_same (takeWord_trace s) (takeWord_lines s)).trans htaken

end Sys2Proof.Machine

/-! Proofs of the statements of 10_state.md: the invariant every step keeps (R22 to R33), which instruction may write
which field (R24 to R39), the observation registers (R35), and the values after reset (R40). -/

namespace Sys2Proof.Machine

/-! ## Ranges and addresses -/

/-- What well-formedness says of the open parameters (00_scope.md R5). -/
theorem openParameters_of_wf {c : Config} (hc : c.wf = true) :
    1 ≤ c.b ∧ c.b ≤ Config.R ∧ 1 ≤ c.rowPeriod ∧ 1 ≤ c.top := by
  obtain ⟨_, _, _, hbLow, hbHigh, _, hPeriod, hTop, _⟩ := of_decide_eq_true hc
  exact ⟨hbLow, hbHigh, hPeriod, hTop⟩

theorem pbufSize_pos {c : Config} (hc : c.wf = true) : 0 < c.pbufSize := by
  obtain ⟨hb, _⟩ := openParameters_of_wf hc
  simp only [Config.pbufSize, Config.L, Config.C]
  omega

/-- Every byte of a packed row can be read (20_memory.md R61, R64). -/
theorem inPbuf_rowBase_add {s : State} (hc : s.cfg.wf = true) (r : BitVec 3) {k : Nat}
    (hk : k < Config.L) : inPbuf s ((rowBase s.cfg r : Int) + (k : Int)) = true :=
  decide_eq_true ⟨by omega, by exact_mod_cast rowBase_add_lt hc r hk⟩

theorem cntNegative_eq_false_iff (c : BitVec 16) : cntNegative c = false ↔ 0 ≤ c.toInt := by
  simp [cntNegative]

theorem cnt_sub_one_toInt {c : BitVec 16} (h : 0 ≤ c.toInt) : (c - 1#16).toInt = c.toInt - 1 := by
  have hlt : c.toInt < 2 ^ 15 := BitVec.toInt_lt
  rw [BitVec.toInt_sub, show (1#16).toInt = 1 from rfl, Int.bmod_eq_of_le] <;> omega

theorem frameIndex_lt {row : BitVec 3} {col : BitVec 4} {ch : Channel} {v : Elem}
    (h : (Instr.wrpix row col ch v).wf = true) :
    frameIndex row.toNat col.toNat ch < Config.FRAME_SIZE := by
  obtain ⟨hrow, hcol⟩ := of_decide_eq_true h
  cases ch <;> simp only [frameIndex, channelNumber, Config.FRAME_SIZE, Config.R, Config.C] at * <;>
    omega

@[simp] theorem setLine_rowsel (x : Lines) (l : Line) (v : Bool) :
    (setLine x l v).rowsel = x.rowsel := by cases l <;> rfl

/-! ## Which words a state enables -/

/-- No build is of both strategies, so a clause of the other build says nothing. -/
theorem isr_absurd_busy {s : State} {p : Prop} (hisr : s.cfg.strat = .isr)
    (hbusy : s.cfg.strat = .busy) : p := by simp [hisr] at hbusy

/-- A host word that is neither refused nor held has the host's step (40_host.md R101). -/
theorem hostFree_of_enabled {i : Instr} {s : State} (hr : refusedFor i s = none)
    (hh : heldWhen i s = false) (hi : i.agent = .host) : ¬(s.cfg.strat = .busy ∧ s.run = true) := by
  rintro ⟨hbusy, hrun⟩
  obtain ⟨hwf, hbuild⟩ := inBuild_of_not_refused hr
  rw [hbusy] at hbuild
  simp [refusedFor, hwf, hbuild, hh, hi, hbusy, hrun] at hr

/-! ## The invariant under each operation

Each lemma restates the clauses whose fields the operation writes; the others carry over. Where a lemma
is of an attempt, `s₀` is the state its step began in, which a hold or a refusal would leave. -/

namespace Inv

variable {s : State}

theorem setOutcome (h : Inv s) (o : StepOutcome) : Inv { s with outcome := o } := { h with }

theorem markRefused (h : Inv s) (o : StepOutcome) : Inv { s with refused := true, outcome := o } :=
  { h with }

theorem afterTakeWord (h : Inv s) : Inv (takeWord s) := by
  unfold takeWord
  split <;> exact { h with }

theorem afterEmit (h : Inv s) {l : Line} (hl : l = .sin ∨ l = .blank) (v : Bool) :
    Inv (emit l v s) := by
  rcases hl with rfl | rfl <;> exact { h with }

theorem afterPulse (h : Inv s) (l : Line) : Inv (pulse l s) := by
  obtain ⟨hsclk, hxlat, hgsclk⟩ := h.pulsesLow
  exact { h with
    pulsesLow := by cases l <;> simp [setLine, hsclk, hxlat, hgsclk]
    oneRow := by simpa using h.oneRow }

theorem afterSetRowSel (h : Inv s) (r : BitVec 3) : Inv (setRowSel r s) :=
  { h with oneRow := .inr ⟨r, rfl⟩ }

/-- One bit on the data line and its clock pulse (42_scan_isr.md R145). -/
theorem afterBit (h : Inv s) (v : Bool) : Inv (pulse .sclk (emit .sin v s)) :=
  (h.afterEmit (.inl rfl) v).afterPulse .sclk

/-! ### The host's words and the packer -/

theorem afterFrameWrite (h : Inv s) {row : BitVec 3} {col : BitVec 4} {ch : Channel} {v : Elem}
    (hwf : (Instr.wrpix row col ch v).wf = true) :
    Inv (frameWrite row.toNat col.toNat ch v s) :=
  { h with frameWf := putCell_wf v h.frameWf (frameIndex_lt hwf) }

theorem setHost (h : Inv s) (x : ScaleState) : Inv { s with host := x } := { h with }

theorem afterEncodeRequest (h : Inv s) (hfree : ¬(s.cfg.strat = .busy ∧ s.run = true))
    (scale : Scale) (orient : Bool) : Inv (encodeRequest scale orient s) :=
  { h with
    posHigh := Nat.zero_le _
    posBusy := fun _ => pbufSize_pos h.cfgWf
    hostConsumed := fun hbusy hrun => absurd ⟨hbusy, hrun⟩ hfree }

theorem setRun (h : Inv s) (hidle : s.enc.busy = false) : Inv { s with run := true } :=
  { h with
    notRunning := nofun
    hostConsumed := fun _ _ => hidle }

theorem afterPackedByte (h : Inv s) (hbusy : s.enc.busy = true) (v : Byte) :
    Inv (advancePass { s with pbuf := putCell s.pbuf s.enc.pos v }) :=
  have hpos := h.posBusy hbusy
  { h with
    pbufWf := putCell_wf v h.pbufWf hpos
    posHigh := hpos
    posBusy := by
      simp only [advancePass, Bool.and_eq_true, decide_eq_true_eq]
      rintro ⟨_, hne⟩
      exact Nat.lt_of_le_of_ne hpos hne
    hostConsumed := fun hb hr => absurd hbusy (by simp [h.hostConsumed hb hr]) }

/-! ### The interrupt-driven strategy -/

theorem clearRaPend (h : Inv s) (hisr : s.cfg.strat = .isr) :
    Inv { s with irq := { s.irq with raPend := false } } :=
  { h with
    notRunning := fun hr => ⟨rfl, (h.notRunning hr).2⟩
    busyBuild := isr_absurd_busy hisr }

theorem clearBcPend (h : Inv s) (hisr : s.cfg.strat = .isr) :
    Inv { s with irq := { s.irq with bcPend := false } } :=
  { h with
    notRunning := fun hr => ⟨(h.notRunning hr).1, rfl, (h.notRunning hr).2.2⟩
    busyBuild := isr_absurd_busy hisr }

theorem loadByte (h : Inv s) (hisr : s.cfg.strat = .isr) (hrun : s.run = true) (byte : Byte) :
    Inv { s with shifter := { txBusy := true, shreg := byte, shcnt := 0#3 } } :=
  { h with
    shcntIdle := nofun
    notRunning := fun hr => absurd hrun (by simpa using hr)
    busyBuild := isr_absurd_busy hisr }

theorem recordCollision (h : Inv s) (hisr : s.cfg.strat = .isr) (byte : Byte) :
    Inv { s with faults := addFault s.faults (.txCollision byte) } :=
  { h with
    busyBuild := isr_absurd_busy hisr
    noBufRange := h.noBufRange }

theorem setCnt (h : Inv s) (hisr : s.cfg.strat = .isr) {c : BitVec 16} (hlow : -1 ≤ c.toInt)
    (hhigh : c.toInt ≤ (Config.L : Int) - 1) : Inv { s with scan := { s.scan with cnt := c } } :=
  { h with
    cntLow := hlow
    cntHigh := hhigh
    busyBuild := isr_absurd_busy hisr }

theorem afterTimerCount (h : Inv s) (hisr : s.cfg.strat = .isr) (hrun : s.run = true) :
    Inv (timerCount s) := by
  obtain ⟨_, _, hperiod, _⟩ := openParameters_of_wf h.cfgWf
  have hnotRunning : s.run ≠ false := by simp [hrun]
  simp only [timerCount]
  split
  · exact { h with
      tcntHigh := hperiod
      notRunning := fun hr => absurd hr hnotRunning
      busyBuild := isr_absurd_busy hisr }
  · next hne =>
    exact { h with
      tcntHigh := Nat.lt_of_le_of_ne h.tcntHigh hne
      busyBuild := isr_absurd_busy hisr }

theorem afterShiftRegister (h : Inv s) (hisr : s.cfg.strat = .isr) (htx : s.shifter.txBusy = true) :
    Inv (shiftRegister s) := by
  have hrunning : s.run ≠ false := fun hr => by simp [(h.notRunning hr).2.2] at htx
  simp only [shiftRegister]
  split
  · exact { h with
      shcntIdle := fun _ => rfl
      notRunning := fun hr => absurd hr hrunning
      busyBuild := isr_absurd_busy hisr }
  · exact { h with
      shcntIdle := fun hidle => absurd htx (by simpa using hidle)
      notRunning := fun hr => absurd hr hrunning
      busyBuild := isr_absurd_busy hisr }

theorem afterRowAdvanceHead (h : Inv s) (hisr : s.cfg.strat = .isr) : Inv (rowAdvanceHead s) :=
  have hlines := ((h.afterEmit (.inr rfl) true).afterPulse .xlat).afterSetRowSel s.scan.row
  have hcnt := hlines.setCnt hisr (c := BitVec.ofNat 16 (Config.L - 1)) (by decide) (by decide)
  { hcnt with }

theorem afterRowAdvance (h : Inv s) (hisr : s.cfg.strat = .isr) (hrun : s.run = true) (s₀ : State) :
    Inv (settled s₀ (rowAdvance s)) := by
  have hhead := h.afterRowAdvanceHead hisr
  have hin := inPbuf_rowBase_add h.cfgWf (s.scan.row + 1#3) (k := 0) (by decide)
  rcases rowAdvance_cases s with ⟨byte, _, _, _, e⟩ | ⟨byte, _, _, _, e⟩ | ⟨addr, hout, rfl, _⟩
  · rw [e]
    exact ((hhead.loadByte hisr hrun byte).afterEmit (.inr rfl) false).setOutcome .ok
  · rw [e]
    exact (hhead.recordCollision hisr byte).setOutcome _
  · exact absurd hin (by simp [hout])

theorem nextByteAddr_inPbuf (h : Inv s) (hcnt : 0 ≤ s.scan.cnt.toInt) :
    inPbuf s (nextByteAddr s) = true := by
  have hhigh := h.cntHigh
  obtain ⟨k, hk⟩ := Int.eq_ofNat_of_zero_le (a := (Config.L : Int) - 1 - s.scan.cnt.toInt) (by omega)
  rw [nextByteAddr, hk]
  exact inPbuf_rowBase_add h.cfgWf _ (by omega)

theorem afterByteComplete (h : Inv s) (hisr : s.cfg.strat = .isr) (hrun : s.run = true)
    (s₀ : State) : Inv (settled s₀ (byteComplete s)) := by
  have hdec (hcnt : cntNegative s.scan.cnt = false) :
      Inv { s with scan := { s.scan with cnt := s.scan.cnt - 1#16 } } := by
    have hhigh := h.cntHigh
    have hpos := (cntNegative_eq_false_iff _).mp hcnt
    have hsub := cnt_sub_one_toInt hpos
    exact h.setCnt hisr (by omega) (by omega)
  rcases byteComplete_cases s with ⟨_, e⟩ | ⟨hcnt, _, e⟩ | ⟨hcnt, hcnt', addr, byte, rfl, _, hload⟩
  · rw [e]
    exact h.setOutcome .ok
  · rw [e]
    exact (hdec hcnt).setOutcome .ok
  · have hin := (hdec hcnt).nextByteAddr_inPbuf ((cntNegative_eq_false_iff _).mp hcnt')
    rcases hload with ⟨_, _, e⟩ | ⟨_, _, e⟩ | ⟨hout, _⟩
    · rw [e]
      exact ((hdec hcnt).loadByte hisr hrun byte).setOutcome .ok
    · rw [e]
      exact ((hdec hcnt).recordCollision hisr byte).setOutcome _
    · exact absurd hin (ne_true_of_eq_false hout)

/-! ### The busy-loop strategy -/

theorem setBitIdx (h : Inv s) (hbusy : s.cfg.strat = .busy) {k : Nat} (hk : k ≤ Config.NBITS) :
    Inv { s with scan := { s.scan with bitIdx := k } } :=
  { h with
    bitIdxHigh := hk
    isrBuild := fun hisr => isr_absurd_busy hisr hbusy }

theorem setPwm (h : Inv s) (hbusy : s.cfg.strat = .busy) {k : Nat} (hlow : 1 ≤ k)
    (hhigh : k ≤ s.cfg.top) : Inv { s with scan := { s.scan with pwm := k } } :=
  { h with
    pwmLow := hlow
    pwmHigh := hhigh
    isrBuild := fun hisr => isr_absurd_busy hisr hbusy }

theorem bitAddr_inPbuf (h : Inv s) (hbit : s.scan.bitIdx < Config.NBITS) :
    inPbuf s (bitAddr s) = true :=
  inPbuf_rowBase_add h.cfgWf s.scan.row (by simp only [Config.NBITS] at hbit; omega)

/-- A row change reloads the counter, whatever it was. -/
theorem afterRowChange (h : Inv s) (hbusy : s.cfg.strat = .busy) (pwm : Nat) :
    Inv (rowChange { s with scan := { s.scan with pwm := pwm } }) := by
  obtain ⟨_, _, _, htop⟩ := openParameters_of_wf h.cfgWf
  have hlines := ((h.afterPulse .xlat).afterPulse .blank).afterSetRowSel (s.scan.row + 1#3)
  have hscan := (hlines.setBitIdx hbusy (k := 0) (Nat.zero_le _)).setPwm hbusy htop le_rfl
  exact { hscan with }

theorem afterLoopCount (h : Inv s) (hbusy : s.cfg.strat = .busy) : Inv (loopCount s) := by
  have hpulse := h.afterPulse .gsclk
  have hhigh := h.pwmHigh
  simp only [loopCount]
  split
  · exact hpulse.afterRowChange hbusy _
  · next hne =>
    exact hpulse.setPwm hbusy (Nat.pos_of_ne_zero hne) ((Nat.sub_le _ _).trans hhigh)

/-- One iteration: a bit or none, then the count. -/
theorem afterIteration (h : Inv s) (hbusy : s.cfg.strat = .busy) (s₀ : State) :
    Inv (settled s₀ (andThen (shiftBit s) fun t => .ok (loopCount t))) := by
  rcases shiftBit_cases s with ⟨byte, hbit, _, _, e⟩ | ⟨_, e⟩ | ⟨hbit, hout, _⟩
  · rw [e]
    exact (((h.afterBit _).setBitIdx hbusy hbit).afterLoopCount hbusy).setOutcome .ok
  · rw [e]
    exact (h.afterLoopCount hbusy).setOutcome .ok
  · exact absurd (h.bitAddr_inPbuf hbit) (ne_true_of_eq_false hout)

/-! ### Every instruction -/

/-- The body of an enabled word keeps the invariant: what enables it gives its body's premises. -/
theorem afterBody (h : Inv s) {i : Instr} (hr : refusedFor i s = none) (hh : heldWhen i s = false) :
    Inv (settled s (body i s)) := by
  obtain ⟨hwf, hbuild⟩ := inBuild_of_not_refused hr
  cases i with
  | wrpix row col ch v => exact (h.afterFrameWrite hwf).setOutcome .ok
  | encfrm scale orient =>
    exact (h.afterEncodeRequest (hostFree_of_enabled hr hh rfl) scale orient).setOutcome .ok
  | scstep =>
    have hfree := hostFree_of_enabled hr hh rfl
    exact ((h.setHost (scaleStep s.host)).afterEncodeRequest hfree _ _).setOutcome .ok
  | start => exact (h.setRun hh).setOutcome .ok
  | tick =>
    have hrun : s.run = true := by simpa [heldWhen] using hh
    exact ((h.afterPulse .gsclk).afterTimerCount (of_decide_eq_true hbuild) hrun).setOutcome .ok
  | radv =>
    have hisr := of_decide_eq_true hbuild
    obtain ⟨⟨hrun, _⟩, _⟩ : (s.run = true ∧ s.irq.raPend = true) ∧ _ := by
      simpa [heldWhen] using hh
    exact (h.clearRaPend hisr).afterRowAdvance hisr hrun s
  | bcmp =>
    have hisr := of_decide_eq_true hbuild
    obtain ⟨⟨hrun, _⟩, _⟩ : (s.run = true ∧ s.irq.bcPend = true) ∧ _ := by
      simpa [heldWhen] using hh
    exact (h.clearBcPend hisr).afterByteComplete hisr hrun s
  | shbit =>
    have htx : s.shifter.txBusy = true := by simpa [heldWhen] using hh
    exact ((h.afterBit _).afterShiftRegister (of_decide_eq_true hbuild) htx).setOutcome .ok
  | encstep =>
    have hbusy : s.enc.busy = true := by simpa [heldWhen] using hh
    simp only [body, memWrite_in _ (h.posBusy hbusy), andThen_ok]
    exact (h.afterPackedByte hbusy _).setOutcome .ok
  | blstep => exact h.afterIteration (of_decide_eq_true hbuild) s

theorem afterExec (h : Inv s) {i : Instr} {t : State} (hexec : exec i s = .next t) : Inv t := by
  rcases exec_cases hexec with ⟨r, _, rfl⟩ | ⟨_, _, rfl⟩ | ⟨hr, hh, hbody⟩
  · exact h.markRefused _
  · exact h.setOutcome .hold
  · cases hbody
    exact h.afterBody hr hh

end Inv

/-- Settles O50: taking a word and marking a refused one touch nothing the invariant speaks of, and
every instruction keeps it. -/
theorem stepKeepsInv : Obligations.StepKeepsInv := by
  intro s t h hstep
  obtain ⟨_, ⟨i, _, hexec⟩ | ⟨r, _, rfl⟩⟩ := step_cases hstep
  · exact h.afterTakeWord.afterExec hexec
  · exact h.afterTakeWord.markRefused _

/-! ## What each instruction may write -/

/-- The reasons of `f`, each with its value, and those of `g` that `f` lacks. -/
def keepReasons (f g : FaultSet) : FaultSet :=
  { txCollision := f.txCollision.or g.txCollision, bufRange := f.bufRange.or g.bufRange }

@[simp] theorem keepReasons_self (f : FaultSet) : keepReasons f f = f := by simp [keepReasons]

@[simp] theorem keepReasons_addFault (f : FaultSet) (r : Fault) :
    keepReasons f (addFault f r) = addFault f r := by
  obtain ⟨a, b⟩ := f
  cases r <;> cases a <;> cases b <;> rfl

/-- The state `s` with the fields an instruction may write taken from `t`. A bit it may only set is
written `s || t`, one it may only clear `s && t`; a bit it writes at one event only has that event
beside `t`. -/
def writesOf (i : Instr) (s t : State) : State :=
  let s := { s with refused := s.refused || t.refused, outcome := t.outcome }
  match i with
  | .wrpix _ _ _ _ => { s with frame := t.frame }
  | .encfrm _ _ => { s with enc := t.enc }
  | .scstep => { s with host := t.host, enc := t.enc }
  | .start => { s with run := s.run || t.run }
  | .tick =>
    let isMatch := decide (s.tcnt + 1 = s.cfg.rowPeriod)
    { s with
      tcnt := t.tcnt
      irq := { s.irq with
        raPend := s.irq.raPend || (isMatch && t.irq.raPend), raLost := s.irq.raLost || t.irq.raLost }
      lines := t.lines, trace := t.trace }
  | .radv =>
    { s with
      scan := { s.scan with row := t.scan.row, cnt := t.scan.cnt }
      shifter := { t.shifter with txBusy := s.shifter.txBusy || t.shifter.txBusy }
      irq := { s.irq with raPend := s.irq.raPend && t.irq.raPend }
      lines := t.lines, trace := t.trace, faults := keepReasons s.faults t.faults }
  | .bcmp =>
    { s with
      scan := { s.scan with cnt := t.scan.cnt }
      shifter := { t.shifter with txBusy := s.shifter.txBusy || t.shifter.txBusy }
      irq := { s.irq with bcPend := s.irq.bcPend && t.irq.bcPend }
      faults := keepReasons s.faults t.faults }
  | .shbit =>
    let eighth := decide (s.shifter.shcnt = 7#3)
    { s with
      shifter := { t.shifter with txBusy := s.shifter.txBusy && (!eighth || t.shifter.txBusy) }
      irq := { s.irq with
        bcPend := s.irq.bcPend || (eighth && t.irq.bcPend), bcLost := s.irq.bcLost || t.irq.bcLost }
      lines := t.lines, trace := t.trace }
  | .encstep =>
    { s with enc := t.enc, pbuf := t.pbuf, faults := keepReasons s.faults t.faults }
  | .blstep =>
    { s with
      scan := { s.scan with row := t.scan.row, bitIdx := t.scan.bitIdx, pwm := t.scan.pwm }
      lines := t.lines, trace := t.trace, faults := keepReasons s.faults t.faults }

theorem or_and_absorb (a b : Bool) : (a || (b && a)) = a := by cases a <;> simp

theorem and_or_absorb (a b : Bool) : (a && (b || a)) = a := by cases a <;> simp

/-- A step that leaves all but `REFUSED` and the outcome is inside every instruction's frame. -/
theorem writesOf_unchanged (i : Instr) (s : State) (b : Bool) (o : StepOutcome) :
    writesOf i s { s with refused := s.refused || b, outcome := o } =
      { s with refused := s.refused || b, outcome := o } := by
  cases i <;> simp [writesOf, or_and_absorb, and_or_absorb]

/-- What a body leaves is inside its instruction's frame: by what its operations can do. -/
theorem body_frame (i : Instr) (s : State) :
    writesOf i s (settled s (body i s)) = settled s (body i s) := by
  cases i with
  | wrpix row col ch v => simp [writesOf, body, settled, frameWrite]
  | encfrm scale orient => simp [writesOf, body, settled, encodeRequest]
  | scstep => simp [writesOf, body, settled, encodeRequest]
  | start => simp [writesOf, body, settled]
  | tick =>
    by_cases hmatch : s.tcnt + 1 = s.cfg.rowPeriod <;>
      simp [writesOf, body, settled, timerCount, pulse, emit, requestRa, hmatch]
  | radv =>
    rcases rowAdvance_cases { s with irq := { s.irq with raPend := false } } with
      ⟨_, _, _, _, e⟩ | ⟨_, _, _, _, e⟩ | ⟨_, _, _, e⟩ <;>
      simp [writesOf, body, settled, e, rowAdvanceHead, pulse, emit, setRowSel]
  | bcmp =>
    rcases byteComplete_cases { s with irq := { s.irq with bcPend := false } } with
      ⟨_, e⟩ | ⟨_, _, e⟩ | ⟨_, _, _, _, _, _, ⟨_, _, e⟩ | ⟨_, _, e⟩ | ⟨_, e⟩⟩ <;>
      simp [writesOf, body, settled, e]
  | shbit =>
    by_cases heighth : s.shifter.shcnt = 7#3 <;>
      simp [writesOf, body, settled, shiftRegister, pulse, emit, requestBc, heighth]
  | encstep =>
    rcases memWrite_cases (s.enc.pos : Int) (nextPacked s) s with ⟨_, e⟩ | ⟨_, e⟩ <;>
      simp [writesOf, body, settled, e, advancePass]
  | blstep =>
    rcases shiftBit_cases s with ⟨_, _, _, _, e⟩ | ⟨_, e⟩ | ⟨_, _, e⟩ <;>
      by_cases hlast : s.scan.pwm - 1 = 0 <;>
      simp [writesOf, body, settled, e, loopCount, rowChange, pulse, emit, setRowSel, hlast]

/-- The frame of every instruction (60_exceptions.md R211). -/
theorem exec_frame {i : Instr} {s t : State} (h : exec i s = .next t) : writesOf i s t = t := by
  rcases exec_cases h with ⟨r, _, rfl⟩ | ⟨_, _, rfl⟩ | ⟨_, _, hbody⟩
  · simpa using writesOf_unchanged i s true (.refuse r)
  · simpa using writesOf_unchanged i s false .hold
  · cases hbody
    exact body_frame i s

/-! ## The host's state and the configuration (R34, R35) -/

theorem writesOf_cfg (i : Instr) (s t : State) : (writesOf i s t).cfg = s.cfg := by cases i <;> rfl

theorem writesOf_host {i : Instr} (hi : i ≠ .scstep) (s t : State) : (writesOf i s t).host = s.host := by
  cases i with
  | scstep => exact absurd rfl hi
  | _ => rfl

theorem writesOf_run {i : Instr} (hi : i ≠ .start) (s t : State) : (writesOf i s t).run = s.run := by
  cases i with
  | start => exact absurd rfl hi
  | _ => rfl

theorem run_stays (i : Instr) {s : State} (t : State) (hrun : s.run = true) :
    (writesOf i s t).run = true := by
  cases i with
  | start => simp [writesOf, hrun]
  | _ => exact hrun

/-- Settles O41: each clause is a field of the frame. -/
theorem hostStateHasOneWriter : Obligations.HostStateHasOneWriter := by
  intro i s t h
  rw [← exec_frame h]
  exact ⟨fun hi => writesOf_host hi s t, fun hi => writesOf_run hi s t, run_stays i t, writesOf_cfg i s t⟩

/-! ## The pending bits (R30) -/

theorem raPend_rises {i : Instr} {s t : State} (hs : s.irq.raPend = false)
    (ht : (writesOf i s t).irq.raPend = true) : i = .tick ∧ s.tcnt + 1 = s.cfg.rowPeriod := by
  cases i with
  | tick =>
    obtain ⟨hmatch, _⟩ : s.tcnt + 1 = s.cfg.rowPeriod ∧ t.irq.raPend = true := by
      simpa [writesOf, hs] using ht
    exact ⟨rfl, hmatch⟩
  | _ => simp [writesOf, hs] at ht

theorem raPend_falls {i : Instr} {s t : State} (hs : s.irq.raPend = true)
    (ht : (writesOf i s t).irq.raPend = false) : i = .radv := by
  cases i with
  | radv => rfl
  | _ => simp [writesOf, hs] at ht

theorem bcPend_rises {i : Instr} {s t : State} (hs : s.irq.bcPend = false)
    (ht : (writesOf i s t).irq.bcPend = true) : i = .shbit ∧ s.shifter.shcnt = 7#3 := by
  cases i with
  | shbit =>
    obtain ⟨heighth, _⟩ : s.shifter.shcnt = 7#3 ∧ t.irq.bcPend = true := by
      simpa [writesOf, hs] using ht
    exact ⟨rfl, heighth⟩
  | _ => simp [writesOf, hs] at ht

theorem bcPend_falls {i : Instr} {s t : State} (hs : s.irq.bcPend = true)
    (ht : (writesOf i s t).irq.bcPend = false) : i = .bcmp := by
  cases i with
  | bcmp => rfl
  | _ => simp [writesOf, hs] at ht

/-- Settles O42: the frame lets a pending bit rise at its source's event and fall at its handler only. -/
theorem pendingBitsHaveOneSource : Obligations.PendingBitsHaveOneSource := by
  intro i s t h
  rw [← exec_frame h]
  exact ⟨raPend_rises, raPend_falls, bcPend_rises, bcPend_falls⟩

/-! ## The transmit register (R26) -/

theorem txBusy_rises {i : Instr} {s t : State} (hs : s.shifter.txBusy = false)
    (ht : (writesOf i s t).shifter.txBusy = true) : i = .radv ∨ i = .bcmp := by
  cases i with
  | radv => exact .inl rfl
  | bcmp => exact .inr rfl
  | _ => simp [writesOf, hs] at ht

theorem txBusy_falls {i : Instr} {s t : State} (hs : s.shifter.txBusy = true)
    (ht : (writesOf i s t).shifter.txBusy = false) : i = .shbit ∧ s.shifter.shcnt = 7#3 := by
  cases i with
  | shbit =>
    obtain ⟨heighth, _⟩ : s.shifter.shcnt = 7#3 ∧ t.shifter.txBusy = false := by
      simpa [writesOf, hs] using ht
    exact ⟨rfl, heighth⟩
  | _ => simp [writesOf, hs] at ht

theorem writesOf_shifter {i : Instr} (hirq : i.agent ≠ .irq) (hi : i ≠ .shbit) (s t : State) :
    (writesOf i s t).shifter = s.shifter := by
  cases i with
  | radv => exact absurd rfl hirq
  | bcmp => exact absurd rfl hirq
  | shbit => exact absurd rfl hi
  | _ => rfl

/-- Settles O43: the frame lets `TX_BUSY` rise at a handler and fall at an eighth bit only. -/
theorem transmitRegisterHasTwoWriters : Obligations.TransmitRegisterHasTwoWriters := by
  intro i s t h
  rw [← exec_frame h]
  exact ⟨txBusy_rises, txBusy_falls, fun hirq hi => writesOf_shifter hirq hi s t⟩

/-! ## The sticky marks (R31, R38, R39) -/

theorem raLost_stays (i : Instr) {s : State} (t : State) (h : s.irq.raLost = true) :
    (writesOf i s t).irq.raLost = true := by cases i <;> simp [writesOf, h]

theorem bcLost_stays (i : Instr) {s : State} (t : State) (h : s.irq.bcLost = true) :
    (writesOf i s t).irq.bcLost = true := by cases i <;> simp [writesOf, h]

theorem refused_stays (i : Instr) {s : State} (t : State) (h : s.refused = true) :
    (writesOf i s t).refused = true := by cases i <;> simp [writesOf, h]

theorem collision_stays (i : Instr) {s : State} (t : State) {x : Byte}
    (h : s.faults.txCollision = some x) : (writesOf i s t).faults.txCollision = some x := by
  cases i <;> simp [writesOf, keepReasons, h]

theorem bufRange_stays (i : Instr) {s : State} (t : State) {x : Int}
    (h : s.faults.bufRange = some x) : (writesOf i s t).faults.bufRange = some x := by
  cases i <;> simp [writesOf, keepReasons, h]

/-- Settles O44: the frame only adds to each mark. -/
theorem stickyMarksStay : Obligations.StickyMarksStay := by
  intro i s t h
  rw [← exec_frame h]
  exact ⟨raLost_stays i t, bcLost_stays i t, refused_stays i t, fun _ => collision_stays i t,
    fun _ => bufRange_stays i t⟩

/-! ## The busy loop's cursors (R24, R25) -/

theorem writesOf_loopCursors {i : Instr} (hi : i ≠ .blstep) (s t : State) :
    (writesOf i s t).scan.bitIdx = s.scan.bitIdx ∧ (writesOf i s t).scan.pwm = s.scan.pwm := by
  cases i with
  | blstep => exact absurd rfl hi
  | _ => exact ⟨rfl, rfl⟩

/-- The one word that writes the cursors is not a word of an `ISR` build, so there it is refused. -/
theorem exec_isr_loopCursors {i : Instr} {s t : State} (hisr : s.cfg.strat = .isr)
    (h : exec i s = .next t) : t.scan.bitIdx = s.scan.bitIdx ∧ t.scan.pwm = s.scan.pwm := by
  by_cases hi : i = .blstep
  · have hrefused : refusedFor i s = some .wrongStrategy := by
      simp [refusedFor, hi, Instr.wf, Instr.inBuild, hisr]
    rcases exec_cases h with ⟨r, _, rfl⟩ | ⟨hnone, _⟩ | ⟨hnone, _⟩
    · exact ⟨rfl, rfl⟩
    · simp [hrefused] at hnone
    · simp [hrefused] at hnone
  · rw [← exec_frame h]
    exact writesOf_loopCursors hi s t

/-- Settles O39: neither taking a word nor marking a refused one writes a cursor, nor does an
instruction of an `ISR` build. -/
theorem isrBuildKeepsLoopCursors : Obligations.IsrBuildKeepsLoopCursors := by
  intro s t hisr h
  obtain ⟨_, ⟨i, _, hexec⟩ | ⟨r, _, rfl⟩⟩ := step_cases h
  · simpa using exec_isr_loopCursors (by simpa using hisr) hexec
  · simp

/-! ## The observation registers (R35) -/

theorem faulted_eq (s : State) : faulted s = decide (s.faults ≠ FaultSet.empty) := by
  rcases hfaults : s.faults with ⟨byte, addr⟩
  cases byte <;> cases addr <;> simp [faulted, hfaults, FaultSet.empty]

theorem getLsbD_append_ofBool_zero {n : Nat} (x : BitVec n) (b : Bool) :
    (x ++ BitVec.ofBool b).getLsbD 0 = b := by
  rw [BitVec.getLsbD_append]
  simp

theorem getLsbD_append_ofBool_succ {n : Nat} (x : BitVec n) (b : Bool) (k : Nat) :
    (x ++ BitVec.ofBool b).getLsbD (k + 1) = x.getLsbD k := by simp [BitVec.getLsbD_append]

theorem ctrl_reserved (s : State) {k : Nat} (hk : 2 ≤ k) : (ctrl s).getLsbD k = false := by
  obtain ⟨j, rfl⟩ := Nat.exists_eq_add_of_le' hk
  simp [ctrl, getLsbD_append_ofBool_succ]

/-- Settles O46: each register is its fields appended, so each bit is found by dropping the ones below it. -/
theorem statusRegistersShowTheirFields : Obligations.StatusRegistersShowTheirFields := by
  intro s
  refine ⟨?run, ?strat, fun _ => ctrl_reserved s, ?status⟩
  case run => exact getLsbD_append_ofBool_zero _ _
  case strat => simp only [ctrl, getLsbD_append_ofBool_succ, getLsbD_append_ofBool_zero]
  case status =>
    simp [status, faulted_eq, getLsbD_append_ofBool_succ, getLsbD_append_ofBool_zero,
      -BitVec.getLsbD_eq_getElem]

/-! ## Reset (R40) -/

/-- Settles O47: the values are those of `State.resetWith`. -/
theorem resetValues : Obligations.ResetValues := fun _ =>
  ⟨0#8, rfl, rfl, rfl, rfl, rfl, rfl, rfl, rfl, rfl, rfl, rfl, rfl⟩

/-- Settles O49: reset is at an end of each range, and no range is empty in a well-formed build. -/
theorem resetMeetsInv : Obligations.ResetMeetsInv := by
  intro c hc
  obtain ⟨_, _, hperiod, htop⟩ := openParameters_of_wf hc
  exact {
    cfgWf := hc
    pbufWf := rfl
    frameWf := rfl
    cntLow := show -1 ≤ (-1#16).toInt by decide
    cntHigh := show (-1#16).toInt ≤ (Config.L : Int) - 1 by decide
    bitIdxHigh := Nat.zero_le _
    pwmLow := htop
    pwmHigh := le_rfl
    tcntHigh := hperiod
    posHigh := Nat.zero_le _
    posBusy := nofun
    shcntIdle := fun _ => rfl
    notRunning := fun _ => ⟨rfl, rfl, rfl⟩
    busyBuild := fun _ => ⟨rfl, rfl, rfl, rfl, rfl⟩
    hostConsumed := fun _ => nofun
    isrBuild := fun _ => ⟨rfl, rfl⟩
    pulsesLow := ⟨rfl, rfl, rfl⟩
    oneRow := .inl rfl
    noBufRange := rfl }

/-- Settles O51: with an empty trace every count is 0, and no pass is in progress. -/
theorem resetMeetsTraceInvariants : Obligations.ResetMeetsTraceInvariants := by
  intro c
  have hpass : PassPrefix (State.resetWith c) := nofun
  have hrows : RowCycleOrder (State.resetWith c) := ⟨rfl, rfl⟩
  have htimer : TimerCountsPulses (State.resetWith c) := fun _ => Nat.zero_mod _
  have hwindow : WindowCounts (State.resetWith c) := fun _ => by
    simp [State.resetWith, rises, rowselEvents]
  have hscale : ScaleInBounds (State.resetWith c) :=
    show 1 ≤ (1#16).toNat ∧ (1#16).toNat < Config.SCALE_HI by decide
  exact ⟨hpass, hrows, htimer, hwindow, hscale, rfl⟩

end Sys2Proof.Machine

/-! Proofs of the statements of 20_memory.md: which instruction may write which memory (R60), and what the memories
hold after reset (R66). -/

namespace Sys2Proof.Machine

/-! ## The writers of the two memories (R60) -/

theorem writesOf_pbuf {i : Instr} (hi : i ≠ .encstep) (s t : State) : (writesOf i s t).pbuf = s.pbuf := by
  cases i with
  | encstep => exact absurd rfl hi
  | _ => rfl

theorem writesOf_frame {i : Instr} (hi : ∀ row col ch v, i ≠ .wrpix row col ch v) (s t : State) :
    (writesOf i s t).frame = s.frame := by
  cases i with
  | wrpix row col ch v => exact absurd rfl (hi row col ch v)
  | _ => rfl

/-- Settles O40: each clause is a field of the frame. -/
theorem memoriesHaveOneWriter : Obligations.MemoriesHaveOneWriter := by
  intro i s t h
  rw [← exec_frame h]
  exact ⟨fun hi => writesOf_pbuf hi s t, fun hi => writesOf_frame hi s t⟩

/-! ## The memories after reset (R66) -/

@[simp] theorem pbufByte_nil (a : Nat) : pbufByte [] a = Config.pbufDraw a := rfl

@[simp] theorem frameRead_nil (r c : Nat) (ch : Channel) :
    frameRead [] r c ch = Config.frameDraw (frameIndex r c ch) := rfl

/-- Settles O48: reset lists no byte and no element as written, and an element's index fixes its place. -/
theorem resetMemoriesHoldDraws : Obligations.ResetMemoriesHoldDraws := fun _ =>
  ⟨pbufByte_nil, frameRead_nil, fun _ _ _ _ _ _ => frameIndex_inj⟩

end Sys2Proof.Machine

/-! Proofs of the statements of 30_encoding.md: a word is its fields (R81 to R84), the decoder and the encoder agree
(R85, R86), every word matches one row of the map or is refused (R87), and what a step does with a word that is
decoded (R80) or refused (R88). -/

namespace Sys2Proof

/-! ## A word is its fields (R81 to R84) -/

theorem opcField_append_reservedN (w : Word) : opcField w ++ reservedN w = w :=
  (BitVec.extractLsb'_append_extractLsb'_eq_extractLsb' rfl).trans BitVec.extractLsb'_eq_self

theorem bit27_append_reservedE_append_valueField (w : Word) :
    BitVec.ofBool (bit27 w) ++ (reservedE w ++ valueField w) = reservedN w := by
  have hbit : BitVec.ofBool (bit27 w) = w.extractLsb' 27 1 := by
    apply BitVec.eq_of_getLsbD_eq
    intro k hk
    obtain rfl : k = 0 := by omega
    simp [bit27]
  have hlow : reservedE w ++ valueField w = w.extractLsb' 0 27 :=
    BitVec.extractLsb'_append_extractLsb'_eq_extractLsb' rfl
  rw [hbit, hlow]
  exact BitVec.extractLsb'_append_extractLsb'_eq_extractLsb' rfl

theorem rowField_append_colField_append_reservedP (w : Word) :
    rowField w ++ (colField w ++ reservedP w) = reservedE w := by
  have hlow : colField w ++ reservedP w = w.extractLsb' 16 8 :=
    BitVec.extractLsb'_append_extractLsb'_eq_extractLsb' rfl
  rw [hlow]
  exact BitVec.extractLsb'_append_extractLsb'_eq_extractLsb' rfl

/-- Words with the same fields of format N are the same word. -/
theorem word_ext_formatN {w w' : Word} (hopc : opcField w = opcField w')
    (hres : reservedN w = reservedN w') : w = w' := by
  rw [← opcField_append_reservedN w, ← opcField_append_reservedN w', hopc, hres]

/-- Words with the same fields of format E are the same word. -/
theorem word_ext_formatE {w w' : Word} (hopc : opcField w = opcField w') (hbit : bit27 w = bit27 w')
    (hres : reservedE w = reservedE w') (hvalue : valueField w = valueField w') : w = w' := by
  refine word_ext_formatN hopc ?_
  rw [← bit27_append_reservedE_append_valueField w, ← bit27_append_reservedE_append_valueField w',
    hbit, hres, hvalue]

/-- Words with the same fields of format P are the same word. -/
theorem word_ext_formatP {w w' : Word} (hopc : opcField w = opcField w') (hbit : bit27 w = bit27 w')
    (hrow : rowField w = rowField w') (hcol : colField w = colField w')
    (hres : reservedP w = reservedP w') (hvalue : valueField w = valueField w') : w = w' := by
  refine word_ext_formatE hopc hbit ?_ hvalue
  rw [← rowField_append_colField_append_reservedP w, ← rowField_append_colField_append_reservedP w',
    hrow, hcol, hres]

/-! ## The fields of an encoded word

The encoder puts each field in its place and joins them with `OR`, so a field is read back alone. -/

/-- A field in place `k` of an otherwise empty word. -/
def placeAt {n : Nat} (k : Nat) (x : BitVec n) : Word := x.setWidth 32 <<< k

theorem extractLsb'_placeAt_same {n k : Nat} (h : k + n ≤ 32) (x : BitVec n) :
    (placeAt k x).extractLsb' k n = x := by
  apply BitVec.eq_of_getLsbD_eq
  intro j hj
  have hword : k + j < 32 := by omega
  have hfield : j < 32 := by omega
  simp [placeAt, hj, hword, hfield, -BitVec.getLsbD_eq_getElem]

theorem extractLsb'_placeAt_disjoint {n k lo len : Nat} (h : k + n ≤ lo ∨ lo + len ≤ k)
    (x : BitVec n) : (placeAt k x).extractLsb' lo len = 0#len := by
  apply BitVec.eq_of_getLsbD_eq
  intro j hj
  rcases h with habove | hbelow
  · have hout : x.getLsbD (lo + j - k) = false := BitVec.getLsbD_of_ge _ _ (by omega)
    simp [placeAt, hout, -BitVec.getLsbD_eq_getElem]
  · have hlow : lo + j < k := by omega
    simp [placeAt, hlow, -BitVec.getLsbD_eq_getElem]

theorem encode_wrpix (row : BitVec 3) (col : BitVec 4) (ch : Channel) (value : Elem) :
    encode (.wrpix row col ch value) =
      placeAt 28 1#4 ||| placeAt 27 (BitVec.ofBool (channelBit ch)) ||| placeAt 24 row |||
        placeAt 20 col ||| placeAt 0 value := by
  simp [encode, encodeN, placeBit27, placeAt]

theorem encode_encfrm (scale : Scale) (orient : Bool) :
    encode (.encfrm scale orient) =
      placeAt 28 2#4 ||| placeAt 27 (BitVec.ofBool orient) ||| placeAt 0 scale := by
  simp [encode, encodeN, placeBit27, placeAt]

theorem bit27_eq_of_extractLsb' {w : Word} {b : Bool} (h : w.extractLsb' 27 1 = BitVec.ofBool b) :
    bit27 w = b := by
  simpa [bit27, -BitVec.getLsbD_eq_getElem] using congrArg (fun x => x.getLsbD 0) h

theorem fields_encode_wrpix (row : BitVec 3) (col : BitVec 4) (ch : Channel) (value : Elem) :
    let w := encode (.wrpix row col ch value)
    opcField w = 1#4 ∧ bit27 w = channelBit ch ∧ rowField w = row ∧ colField w = col ∧
      reservedP w = 0#4 ∧ valueField w = value := by
  refine ⟨?_, bit27_eq_of_extractLsb' ?_, ?_, ?_, ?_, ?_⟩ <;>
    simp [opcField, rowField, colField, reservedP, valueField, BitVec.extractLsb, encode_wrpix,
      BitVec.extractLsb'_or, extractLsb'_placeAt_same, extractLsb'_placeAt_disjoint]

theorem fields_encode_encfrm (scale : Scale) (orient : Bool) :
    let w := encode (.encfrm scale orient)
    opcField w = 2#4 ∧ bit27 w = orient ∧ reservedE w = 0#11 ∧ valueField w = scale := by
  refine ⟨?_, bit27_eq_of_extractLsb' ?_, ?_, ?_⟩ <;>
    simp [opcField, reservedE, valueField, BitVec.extractLsb, encode_encfrm, BitVec.extractLsb'_or,
      extractLsb'_placeAt_same, extractLsb'_placeAt_disjoint]

/-! ## The decoder, format by format -/

@[simp] theorem channelOf_channelBit (ch : Channel) : channelOf (channelBit ch) = ch := by
  cases ch <;> rfl

@[simp] theorem channelBit_channelOf (b : Bool) : channelBit (channelOf b) = b := by cases b <;> rfl

/-- The instruction whose operands are a word's fields of format P. -/
def wrpixOf (w : Word) : Instr := .wrpix (rowField w) (colField w) (channelOf (bit27 w)) (valueField w)

theorem wrpixOf_wf_eq_false_iff (w : Word) :
    (wrpixOf w).wf = false ↔ Config.R ≤ (rowField w).toNat ∨ Config.C ≤ (colField w).toNat := by
  simp only [wrpixOf, Instr.wf, decide_eq_false_iff_not, not_and_or, Nat.not_lt]

theorem decodeP_eq_ok_iff (w : Word) (i : Instr) :
    decodeP w = .ok i ↔ reservedP w = 0#4 ∧ (wrpixOf w).wf = true ∧ wrpixOf w = i := by
  by_cases hres : reservedP w = 0#4
  · cases hwf : (wrpixOf w).wf <;> simp_all [decodeP, wrpixOf]
  · simp [decodeP, hres]

theorem decodeP_eq_error_iff (w : Word) (r : RefuseReason) :
    decodeP w = .error r ↔
      (reservedP w ≠ 0#4 ∧ r = .reservedField) ∨
      (reservedP w = 0#4 ∧ (wrpixOf w).wf = false ∧ r = .operandRange) := by
  by_cases hres : reservedP w = 0#4
  · cases hwf : (wrpixOf w).wf <;> simp_all [decodeP, wrpixOf, @eq_comm RefuseReason]
  · simp [decodeP, hres, @eq_comm RefuseReason]

theorem decodeE_eq_ok_iff (w : Word) (i : Instr) :
    decodeE w = .ok i ↔ reservedE w = 0#11 ∧ .encfrm (valueField w) (bit27 w) = i := by
  by_cases hres : reservedE w = 0#11 <;> simp [decodeE, hres]

theorem decodeE_eq_error_iff (w : Word) (r : RefuseReason) :
    decodeE w = .error r ↔ reservedE w ≠ 0#11 ∧ r = .reservedField := by
  by_cases hres : reservedE w = 0#11 <;> simp [decodeE, hres, eq_comm]

theorem decodeN_eq_ok_iff (i j : Instr) (w : Word) :
    decodeN i w = .ok j ↔ reservedN w = 0#28 ∧ i = j := by
  by_cases hres : reservedN w = 0#28 <;> simp [decodeN, hres]

theorem decodeN_eq_error_iff (i : Instr) (w : Word) (r : RefuseReason) :
    decodeN i w = .error r ↔ reservedN w ≠ 0#28 ∧ r = .reservedField := by
  by_cases hres : reservedN w = 0#28 <;> simp [decodeN, hres, eq_comm]

/-! ## The decoder -/

/-- The instructions of format N (R86). -/
def plainInstrs : List Instr := [.scstep, .start, .tick, .radv, .bcmp, .shbit, .encstep, .blstep]

theorem wf_of_mem_plainInstrs {i : Instr} (hi : i ∈ plainInstrs) : i.wf = true := by
  revert i; decide

theorem reservedN_encode_of_mem_plainInstrs {i : Instr} (hi : i ∈ plainInstrs) :
    reservedN (encode i) = 0#28 := by
  revert i; decide

/-- The opcodes that R86 reserves. -/
def reservedOpcodes : List Nat := [0x0, 0x5, 0x6, 0x7, 0xE, 0xF]

/-- The opcodes of the words of format N. -/
def plainOpcodes : List Nat := plainInstrs.map fun i => (opcField (encode i)).toNat

theorem plainOpcodes_eq : plainOpcodes = [0x3, 0x4, 0x8, 0x9, 0xA, 0xB, 0xC, 0xD] := by decide

theorem not_plain_of_mem_reservedOpcodes {n : Nat} (h : n ∈ reservedOpcodes) :
    n ≠ 1 ∧ n ≠ 2 ∧ n ∉ plainOpcodes := by
  revert n; decide

theorem not_reserved_of_mem_plainOpcodes {n : Nat} (h : n ∈ plainOpcodes) :
    n ≠ 1 ∧ n ≠ 2 ∧ n ∉ reservedOpcodes := by
  revert n; decide

/-- Every opcode is reserved, that of format P or E, or that of an instruction of format N. -/
theorem opcode_cases (opc : BitVec 4) :
    opc.toNat ∈ reservedOpcodes ∨ opc = 1#4 ∨ opc = 2#4 ∨
      ∃ i ∈ plainInstrs, opc = opcField (encode i) := by
  revert opc; decide

theorem decode_eq_reservedOpc {w : Word} (h : (opcField w).toNat ∈ reservedOpcodes) :
    decode w = .error .reservedOpc := by
  simp only [reservedOpcodes, List.mem_cons, List.not_mem_nil, or_false] at h
  rcases h with h | h | h | h | h | h <;> simp [decode, h]

theorem decode_eq_decodeP {w : Word} (h : opcField w = 1#4) : decode w = decodeP w := by
  simp [decode, h]

theorem decode_eq_decodeE {w : Word} (h : opcField w = 2#4) : decode w = decodeE w := by
  simp [decode, h]

theorem decode_eq_decodeN {w : Word} {i : Instr} (hi : i ∈ plainInstrs)
    (h : opcField w = opcField (encode i)) : decode w = decodeN i w := by
  cases i with
  | wrpix row col ch value => simp [plainInstrs] at hi
  | encfrm scale orient => simp [plainInstrs] at hi
  | _ => rw [decode, h]; rfl

/-- The opcode chooses the format, and in format N the instruction (R86). -/
theorem decode_cases (w : Word) :
    ((opcField w).toNat ∈ reservedOpcodes ∧ decode w = .error .reservedOpc) ∨
    (opcField w = 1#4 ∧ decode w = decodeP w) ∨
    (opcField w = 2#4 ∧ decode w = decodeE w) ∨
    (∃ i ∈ plainInstrs, opcField w = opcField (encode i) ∧ decode w = decodeN i w) := by
  rcases opcode_cases (opcField w) with h | h | h | ⟨i, hi, h⟩
  · exact .inl ⟨h, decode_eq_reservedOpc h⟩
  · exact .inr (.inl ⟨h, decode_eq_decodeP h⟩)
  · exact .inr (.inr (.inl ⟨h, decode_eq_decodeE h⟩))
  · exact .inr (.inr (.inr ⟨i, hi, h, decode_eq_decodeN hi h⟩))

/-- Which words the decoder refuses, and why: the opcode first, then the reserved field of its format,
then the operands (R88 (a) to (c)). -/
theorem decode_eq_error_iff (w : Word) (r : RefuseReason) :
    decode w = .error r ↔
      ((opcField w).toNat ∈ reservedOpcodes ∧ r = .reservedOpc) ∨
      ((((opcField w).toNat = 0x1 ∧ reservedP w ≠ 0#4) ∨
        ((opcField w).toNat = 0x2 ∧ reservedE w ≠ 0#11) ∨
        ((opcField w).toNat ∈ plainOpcodes ∧ reservedN w ≠ 0#28)) ∧ r = .reservedField) ∨
      ((opcField w).toNat = 0x1 ∧ reservedP w = 0#4 ∧
        (Config.R ≤ (rowField w).toNat ∨ Config.C ≤ (colField w).toNat) ∧ r = .operandRange) := by
  have hone : 1 ∉ reservedOpcodes ∧ 1 ∉ plainOpcodes := by decide
  have htwo : 2 ∉ reservedOpcodes ∧ 2 ∉ plainOpcodes := by decide
  rcases decode_cases w with ⟨hopc, hd⟩ | ⟨hopc, hd⟩ | ⟨hopc, hd⟩ | ⟨i, hi, hopc, hd⟩ <;> rw [hd]
  · simp [hopc, not_plain_of_mem_reservedOpcodes hopc, eq_comm]
  · rw [decodeP_eq_error_iff, wrpixOf_wf_eq_false_iff]
    simp [hopc, hone]
  · rw [decodeE_eq_error_iff]
    simp [hopc, htwo]
  · have hmem : (opcField w).toNat ∈ plainOpcodes := hopc ▸ List.mem_map_of_mem hi
    rw [decodeN_eq_error_iff]
    simp [hmem, not_reserved_of_mem_plainOpcodes hmem]

/-! ## Decoding and encoding agree (R85, R86) -/

/-- Settles O1: the opcode of an encoded word chooses its format, whose fields are the operands. -/
theorem decodeEncodeRoundTrip : Obligations.DecodeEncodeRoundTrip := by
  intro i hwf
  cases i with
  | wrpix row col ch value =>
    obtain ⟨hopc, hbit, hrow, hcol, hres, hvalue⟩ := fields_encode_wrpix row col ch value
    have hof : wrpixOf (encode (.wrpix row col ch value)) = .wrpix row col ch value := by
      rw [wrpixOf, hrow, hcol, hbit, hvalue, channelOf_channelBit]
    rw [decode_eq_decodeP hopc, decodeP_eq_ok_iff, hof]
    exact ⟨hres, hwf, rfl⟩
  | encfrm scale orient =>
    obtain ⟨hopc, hbit, hres, hvalue⟩ := fields_encode_encfrm scale orient
    rw [decode_eq_decodeE hopc, decodeE_eq_ok_iff, hbit, hvalue]
    exact ⟨hres, rfl⟩
  | _ => rfl

theorem encode_wrpixOf {w : Word} (hopc : opcField w = 1#4) (hres : reservedP w = 0#4) :
    encode (wrpixOf w) = w := by
  obtain ⟨hopc', hbit, hrow, hcol, hres', hvalue⟩ :=
    fields_encode_wrpix (rowField w) (colField w) (channelOf (bit27 w)) (valueField w)
  exact word_ext_formatP (hopc'.trans hopc.symm) (hbit.trans (channelBit_channelOf _)) hrow hcol
    (hres'.trans hres.symm) hvalue

theorem encode_encfrm_fields {w : Word} (hopc : opcField w = 2#4) (hres : reservedE w = 0#11) :
    encode (.encfrm (valueField w) (bit27 w)) = w := by
  obtain ⟨hopc', hbit, hres', hvalue⟩ := fields_encode_encfrm (valueField w) (bit27 w)
  exact word_ext_formatE (hopc'.trans hopc.symm) hbit (hres'.trans hres.symm) hvalue

/-- Settles O2: the word and the encoding of what it decodes to have the same opcode, operand fields and,
all 0, reserved field, and these are the whole word. -/
theorem encodeDecodeRoundTrip : Obligations.EncodeDecodeRoundTrip := by
  intro w i hi
  rcases decode_cases w with ⟨-, hd⟩ | ⟨hopc, hd⟩ | ⟨hopc, hd⟩ | ⟨j, hj, hopc, hd⟩ <;> rw [hd] at hi
  · cases hi
  · obtain ⟨hres, hwf, rfl⟩ := (decodeP_eq_ok_iff w i).mp hi
    exact ⟨hwf, encode_wrpixOf hopc hres⟩
  · obtain ⟨hres, rfl⟩ := (decodeE_eq_ok_iff w i).mp hi
    exact ⟨rfl, encode_encfrm_fields hopc hres⟩
  · obtain ⟨hres, rfl⟩ := (decodeN_eq_ok_iff j i w).mp hi
    have hzero := reservedN_encode_of_mem_plainInstrs hj
    exact ⟨wf_of_mem_plainInstrs hj, word_ext_formatN hopc.symm (hzero.trans hres.symm)⟩

/-! ## Refused words (R88 (a) to (c)) -/

/-- Settles O4: each clause is the case of its reason. -/
theorem decoderRefusesByLowestCode : Obligations.DecoderRefusesByLowestCode := by
  intro w
  simp only [decode_eq_error_iff, reservedOpcodes, plainOpcodes_eq, reduceCtorEq, and_true, and_false,
    or_false, false_or, and_self]

/-! ## The opcode map (R86, R87) -/

theorem opcodeTable_eq :
    opcodeTable = (Instr.wrpix 0#3 0#4 .green 0#16).opRow :: (Instr.encfrm 0#16 false).opRow ::
      plainInstrs.map Instr.opRow := rfl

/-- `Laws.OpcodeRow.Statement` for every instruction. -/
theorem opcodeRow_statement : ∀ i : Instr, Laws.OpcodeRow.Statement i
  | .wrpix row col ch value => Laws.OpcodeRow.wrpix row col ch value
  | .encfrm scale orient => Laws.OpcodeRow.encfrm scale orient
  | .scstep => Laws.OpcodeRow.scstep
  | .start => Laws.OpcodeRow.start
  | .tick => Laws.OpcodeRow.tick
  | .radv => Laws.OpcodeRow.radv
  | .bcmp => Laws.OpcodeRow.bcmp
  | .shbit => Laws.OpcodeRow.shbit
  | .encstep => Laws.OpcodeRow.encstep
  | .blstep => Laws.OpcodeRow.blstep

/-- A field that a mask covers is unchanged by the mask. -/
theorem extractLsb_and_of_covered {w m : Word} {hi lo : Nat}
    (hm : m.extractLsb hi lo = BitVec.allOnes (hi - lo + 1)) :
    (w &&& m).extractLsb hi lo = w.extractLsb hi lo := by
  rw [BitVec.extractLsb_and, hm, BitVec.and_allOnes]

/-- Every row's mask covers the opcode, so a word has the opcode of a row it matches. -/
theorem opcField_of_hits {row : OpRow} {w : Word} (hrow : row ∈ opcodeTable) (hits : row.hits w = true) :
    opcField w = opcField row.pattern := by
  have hmask : ∀ row ∈ opcodeTable, opcField row.mask = BitVec.allOnes 4 := by decide
  have hfield : opcField (w &&& row.mask) = opcField w := extractLsb_and_of_covered (hmask row hrow)
  rw [← hfield, of_decide_eq_true hits]

theorem row_eq_of_hits {row row' : OpRow} {w : Word} (hrow : row ∈ opcodeTable)
    (hrow' : row' ∈ opcodeTable) (hits : row.hits w = true) (hits' : row'.hits w = true) : row = row' := by
  have hnodup : (opcodeTable.map fun row => opcField row.pattern).Nodup := by decide
  exact List.inj_on_of_nodup_map hnodup hrow hrow'
    ((opcField_of_hits hrow hits).symm.trans (opcField_of_hits hrow' hits'))

theorem rowsOf_eq_singleton {row : OpRow} {w : Word} (hrow : row ∈ opcodeTable)
    (hits : row.hits w = true) : rowsOf w = [row] := by
  have hnodup : opcodeTable.Nodup := List.Nodup.of_map (fun row => opcField row.pattern) (by decide)
  have honly : ∀ row' ∈ opcodeTable, row'.hits w = decide (row' = row) := fun row' hrow' =>
    Bool.eq_iff_iff.mpr ⟨fun hits' => decide_eq_true (row_eq_of_hits hrow' hrow hits' hits),
      fun heq => of_decide_eq_true heq ▸ hits⟩
  rw [rowsOf, List.filter_congr honly, List.filter_eq, List.count_eq_one_of_mem hnodup hrow]
  rfl

theorem rowsOf_cases (w : Word) :
    rowsOf w = [] ∨ ∃ row ∈ opcodeTable, row.hits w = true ∧ rowsOf w = [row] := by
  rcases h : rowsOf w with _ | ⟨row, rest⟩
  · exact .inl rfl
  · obtain ⟨hrow, hits⟩ := List.mem_filter.mp (h ▸ List.mem_cons_self : row ∈ rowsOf w)
    exact .inr ⟨row, hrow, hits, h ▸ rowsOf_eq_singleton hrow hits⟩

theorem rowsOf_of_decode_ok {w : Word} {i : Instr} (h : decode w = .ok i) : rowsOf w = [i.opRow] := by
  obtain ⟨-, rfl⟩ := encodeDecodeRoundTrip w i h
  obtain ⟨hits, hrow⟩ := opcodeRow_statement i
  exact rowsOf_eq_singleton hrow hits

/-- What a row's match says of the reserved field of its format. -/
theorem hits_cases {row : OpRow} {w : Word} (hrow : row ∈ opcodeTable) (hits : row.hits w = true) :
    (opcField w = 1#4 ∧ reservedP w = 0#4) ∨ (opcField w = 2#4 ∧ reservedE w = 0#11) ∨
      ∃ i ∈ plainInstrs, w = encode i := by
  have hopc := opcField_of_hits hrow hits
  have hw := of_decide_eq_true hits
  rw [opcodeTable_eq] at hrow
  rcases List.mem_cons.mp hrow with rfl | hrow
  · refine .inl ⟨hopc, ?_⟩
    exact (extractLsb_and_of_covered (by decide)).symm.trans (congrArg reservedP hw)
  rcases List.mem_cons.mp hrow with rfl | hrow
  · refine .inr (.inl ⟨hopc, ?_⟩)
    exact (extractLsb_and_of_covered (by decide)).symm.trans (congrArg reservedE hw)
  · obtain ⟨i, hi, rfl⟩ := List.mem_map.mp hrow
    have hexact : ∀ i ∈ plainInstrs, i.opRow.mask = BitVec.allOnes 32 ∧ i.opRow.pattern = encode i := by
      decide
    obtain ⟨hmask, hpattern⟩ := hexact i hi
    rw [hmask, hpattern, BitVec.and_allOnes] at hw
    exact .inr (.inr ⟨i, hi, hw⟩)

/-- A word that matches a row can be refused for its operands only. -/
theorem decode_error_of_hits {row : OpRow} {w : Word} {r : RefuseReason} (hrow : row ∈ opcodeTable)
    (hits : row.hits w = true) (h : decode w = .error r) : r = .operandRange := by
  rcases hits_cases hrow hits with ⟨hopc, hres⟩ | ⟨hopc, hres⟩ | ⟨i, hi, rfl⟩
  · rw [decode_eq_decodeP hopc, decodeP_eq_error_iff] at h
    rcases h with ⟨hne, -⟩ | ⟨-, -, hr⟩
    · exact absurd hres hne
    · exact hr
  · rw [decode_eq_decodeE hopc, decodeE_eq_error_iff] at h
    exact absurd hres h.1
  · simp [decodeEncodeRoundTrip i (wf_of_mem_plainInstrs hi)] at h

theorem decode_error_cases {w : Word} {r : RefuseReason} (h : decode w = .error r) :
    r = .operandRange ∨ r = .reservedOpc ∨ r = .reservedField := by
  rcases (decode_eq_error_iff w r).mp h with ⟨-, hr⟩ | ⟨-, hr⟩ | ⟨-, -, -, hr⟩
  · exact .inr (.inl hr)
  · exact .inr (.inr hr)
  · exact .inl hr

/-- Settles O3: rows have opcodes of their own, so a word matches one or none; a decoded word is its
instruction's encoding, which lies in that instruction's row. -/
theorem decodeIsTotalOnOneRow : Obligations.DecodeIsTotalOnOneRow := by
  intro w
  refine ⟨?single, ?outcome⟩
  case single => rcases rowsOf_cases w with h | ⟨row, -, -, h⟩ <;> simp [h]
  case outcome =>
    cases hd : decode w with
    | ok i => exact .inl ⟨i, rfl, (encodeDecodeRoundTrip w i hd).1, rowsOf_of_decode_ok hd⟩
    | error r =>
      refine .inr ⟨r, rfl, ?_⟩
      rcases rowsOf_cases w with hnone | ⟨row, hrow, hits, -⟩
      · exact (decode_error_cases hd).imp_right fun hr => ⟨hr, hnone⟩
      · exact .inl (decode_error_of_hits hrow hits hd)

/-- Settles O5: the decoded words are encodings, and the other two are refused words. -/
theorem specWordsDecode : Obligations.SpecWordsDecode :=
  ⟨decodeEncodeRoundTrip (.wrpix 0#3 1#4 .green 6#16) rfl, decodeEncodeRoundTrip (.encfrm 127#16 true) rfl,
    decodeEncodeRoundTrip .scstep rfl, decodeEncodeRoundTrip .tick rfl, decodeEncodeRoundTrip .bcmp rfl,
    decodeEncodeRoundTrip .encstep rfl, decodeEncodeRoundTrip .blstep rfl,
    (decode_eq_error_iff _ _).mpr (by decide), (decode_eq_error_iff _ _).mpr (by decide)⟩

end Sys2Proof

namespace Sys2Proof.Machine

/-! ## A step on the next word (R80, R88) -/

theorem step_of_decode_ok {s : State} {i : Instr} (hc : s.cfg.wf = true)
    (hf : s.faults = FaultSet.empty) (hd : decode (nextWord s) = .ok i) :
    step s = exec i (takeWord s) := by
  simp [step, (stopped_none_iff s).mpr ⟨hc, hf⟩, hd]

theorem step_of_decode_error {s : State} {r : RefuseReason} (hc : s.cfg.wf = true)
    (hf : s.faults = FaultSet.empty) (hd : decode (nextWord s) = .error r) :
    step s = .next { takeWord s with refused := true, outcome := .refuse r } := by
  simp [step, (stopped_none_iff s).mpr ⟨hc, hf⟩, hd]

theorem nextWord_of_placed {s : State} {w : Word} {rest : List Word} (h : s.sched = w :: rest) :
    nextWord s = w := by simp [nextWord, h]

theorem takeWord_of_placed {s : State} {w : Word} {rest : List Word} (h : s.sched = w :: rest) :
    takeWord s = { s with sched := rest } := by simp [takeWord, h]

theorem nextWord_of_nothingPlaced {s : State} (h : s.sched = []) :
    nextWord s = Config.eventWord s.events := by simp [nextWord, h]

theorem takeWord_of_nothingPlaced {s : State} (h : s.sched = []) :
    takeWord s = { s with events := s.events + 1 } := by simp [takeWord, h]

/-- Settles O6: a machine that is not stopped takes the next word, placed or offered. -/
theorem stepRunsDecodedWord : Obligations.StepRunsDecodedWord := by
  intro s hc hf
  refine ⟨fun w rest i hplaced hd => ?placed, fun hnone => ?free⟩
  case placed =>
    rw [step_of_decode_ok hc hf ((nextWord_of_placed hplaced).symm ▸ hd), takeWord_of_placed hplaced]
  case free =>
    rw [← takeWord_of_nothingPlaced hnone, ← nextWord_of_nothingPlaced hnone]
    cases hd : decode (nextWord s) with
    | ok i => exact step_of_decode_ok hc hf hd
    | error r => rw [step_of_decode_error hc hf hd, takeWord_of_nothingPlaced hnone]

/-- Settles O7: the word taken is the placed one, and taking it writes the schedule alone. -/
theorem undecodableWordSetsOnlyRefused : Obligations.UndecodableWordSetsOnlyRefused := by
  intro s w rest r hc hf hplaced hd
  rw [step_of_decode_error hc hf ((nextWord_of_placed hplaced).symm ▸ hd), takeWord_of_placed hplaced]

/-! ## Refused steps (R88) -/

/-- Settles O11: only a refusal reports `refuse`, and it reports its own reason. -/
theorem refusalSetsOnlyRefused : Obligations.RefusalSetsOnlyRefused := by
  intro i s t r hexec
  refine exec_elim
    (P := fun s t => t.outcome = .refuse r → t = { s with refused := true, outcome := .refuse r }) hexec
    ?hrefuse ?hhold ?hok ?hfault
  case hrefuse => intro r' h; cases h; rfl
  case hhold => intro h; cases h
  case hok => intro u _ _ _ h; cases h
  case hfault => intro r' u _ _ _ h; cases h

/-- A rest that ends well adds no refusal. -/
theorem andThen_ne_refuse {a : Attempt} {k : State → State} {r : RefuseReason} (h : a ≠ .refuse r) :
    andThen a (fun t => .ok (k t)) ≠ .refuse r := by
  cases a <;> simp_all

/-- A word is refused before its body runs (60_exceptions.md R206). -/
theorem body_ne_refuse (i : Instr) (s : State) (r : RefuseReason) : body i s ≠ .refuse r := by
  cases i with
  | radv =>
    rcases rowAdvance_cases { s with irq := { s.irq with raPend := false } } with
      ⟨_, _, _, _, e⟩ | ⟨_, _, _, _, e⟩ | ⟨_, _, _, e⟩ <;> simp [body, e]
  | bcmp =>
    rcases byteComplete_cases { s with irq := { s.irq with bcPend := false } } with
      ⟨_, e⟩ | ⟨_, _, e⟩ | ⟨_, _, _, _, _, _, ⟨_, _, e⟩ | ⟨_, _, e⟩ | ⟨_, e⟩⟩ <;> simp [body, e]
  | encstep =>
    refine andThen_ne_refuse ?_
    rcases memWrite_cases (s.enc.pos : Int) (nextPacked s) s with ⟨_, e⟩ | ⟨_, e⟩ <;> simp [e]
  | blstep =>
    refine andThen_ne_refuse ?_
    rcases shiftBit_cases s with ⟨_, _, _, _, e⟩ | ⟨_, e⟩ | ⟨_, _, e⟩ <;> simp [e]
  | _ => exact nofun

theorem exec_of_refused {i : Instr} {s : State} {r : RefuseReason} (h : refusedFor i s = some r) :
    exec i s = .next { s with refused := true, outcome := .refuse r } := by
  simp [exec_eq_settle, attempt_eq, h]

theorem refusedFor_of_outcome {i : Instr} {s t : State} {r : RefuseReason} (hexec : exec i s = .next t)
    (h : t.outcome = .refuse r) : refusedFor i s = some r := by
  rcases exec_cases hexec with ⟨r', hr, rfl⟩ | ⟨_, _, rfl⟩ | ⟨_, _, hbody⟩
  · cases h
    exact hr
  · cases h
  · rcases settle_cases hbody with ⟨u, _, rfl⟩ | ⟨_, rfl⟩ | ⟨r', u, _, rfl⟩ | ⟨r', hrefuse, _⟩
    · cases h
    · cases h
    · cases h
    · exact absurd hrefuse (body_ne_refuse i s r')

/-- Settles O13: a refusal is what `refusedFor` says, since no body refuses. -/
theorem refusedExactlyWhen : Obligations.RefusedExactlyWhen := fun _ _ _ =>
  ⟨fun ⟨_, hexec, h⟩ => refusedFor_of_outcome hexec h, fun h => ⟨_, exec_of_refused h, rfl⟩⟩

end Sys2Proof.Machine

/-! Proofs of the statements of 40_host.md: exactly when a step is held (R100, I38), and what the host's words do:
`WRPIX` (R102), `SCSTEP` and the range it keeps the scale in (R103), `START` (R104). -/

namespace Sys2Proof.Machine

/-! ## Held steps (R100, I38) -/

/-- A body that runs ends well or in a fault: holds and refusals are decided before it
(60_exceptions.md R206). -/
theorem body_cases (i : Instr) (s : State) :
    (∃ u, body i s = .ok u) ∨ ∃ r u, body i s = .fault r u := by
  cases i with
  | radv =>
    rcases rowAdvance_cases { s with irq := { s.irq with raPend := false } } with
      ⟨_, _, _, _, e⟩ | ⟨_, _, _, _, e⟩ | ⟨_, _, _, e⟩ <;> simp [body, e]
  | bcmp =>
    rcases byteComplete_cases { s with irq := { s.irq with bcPend := false } } with
      ⟨_, e⟩ | ⟨_, _, e⟩ | ⟨_, _, _, _, _, _, ⟨_, _, e⟩ | ⟨_, _, e⟩ | ⟨_, e⟩⟩ <;> simp [body, e]
  | encstep =>
    rcases memWrite_cases (s.enc.pos : Int) (nextPacked s) s with ⟨_, e⟩ | ⟨_, e⟩ <;> simp [body, e]
  | blstep =>
    rcases shiftBit_cases s with ⟨_, _, _, _, e⟩ | ⟨_, e⟩ | ⟨_, _, e⟩ <;> simp [body, e]
  | _ => exact .inl ⟨_, rfl⟩

/-- A word of this build that its rule holds is not refused. -/
theorem refusedFor_of_held {i : Instr} {s : State} (hwf : i.wf = true)
    (hbuild : i.inBuild s.cfg.strat = true) (hheld : heldWhen i s = true) : refusedFor i s = none := by
  simp [refusedFor, hwf, hbuild, hheld]

theorem exec_of_held {i : Instr} {s : State} (hwf : i.wf = true)
    (hbuild : i.inBuild s.cfg.strat = true) (hheld : heldWhen i s = true) :
    exec i s = .next { s with outcome := .hold } := by
  simp [exec_eq_settle, attempt_eq, refusedFor_of_held hwf hbuild hheld, hheld]

theorem held_of_outcome {i : Instr} {s t : State} (hexec : exec i s = .next t) (h : t.outcome = .hold) :
    i.wf = true ∧ i.inBuild s.cfg.strat = true ∧ heldWhen i s = true := by
  rcases exec_cases hexec with ⟨_, _, rfl⟩ | ⟨hr, hheld, _⟩ | ⟨_, _, hbody⟩
  · cases h
  · obtain ⟨hwf, hbuild⟩ := inBuild_of_not_refused hr
    exact ⟨hwf, hbuild, hheld⟩
  · rcases body_cases i s with ⟨u, e⟩ | ⟨r, u, e⟩ <;> rw [e] at hbody <;> cases hbody <;> cases h

/-- Settles O12: a hold is what `heldWhen` says of a word that is not refused, since no body holds. -/
theorem heldExactlyWhen : Obligations.HeldExactlyWhen := fun _ _ =>
  ⟨fun ⟨_, hexec, h⟩ => held_of_outcome hexec h,
    fun ⟨hwf, hbuild, hheld⟩ => ⟨_, exec_of_held hwf hbuild hheld, rfl⟩⟩

/-! ## Refused and enabled words (R88, R101) -/

theorem refusedFor_wrongStrategy {i : Instr} {s : State} (hwf : i.wf = true)
    (hbuild : i.inBuild s.cfg.strat = false) : refusedFor i s = some .wrongStrategy := by
  simp [refusedFor, hwf, hbuild]

theorem exec_of_enabled {i : Instr} {s : State} (hr : refusedFor i s = none)
    (hheld : heldWhen i s = false) : exec i s = settle s (body i s) := by
  simp [exec_eq_settle, attempt_eq, hr, hheld]

theorem refusedFor_hostConsumed {i : Instr} {s : State} (hi : i.agent = .host) (hwf : i.wf = true)
    (hbuild : i.inBuild s.cfg.strat = true) (hidle : heldWhen i s = false)
    (hbusy : s.cfg.strat = .busy) (hrun : s.run = true) : refusedFor i s = some .hostConsumed := by
  rw [hbusy] at hbuild
  simp [refusedFor, hi, hwf, hbuild, hidle, hbusy, hrun]

/-- A host word runs when no loop has taken the host's steps and, for `START`, the engine stands still. -/
theorem exec_of_hostFree {i : Instr} {s : State} (hwf : i.wf = true)
    (hbuild : i.inBuild s.cfg.strat = true) (hidle : heldWhen i s = false)
    (hfree : s.cfg.strat = .isr ∨ s.run = false) (hstart : i = .start → s.run = false) :
    exec i s = settle s (body i s) := by
  refine exec_of_enabled ?_ hidle
  have hconsumed : ¬(i.agent = .host ∧ s.cfg.strat = .busy ∧ s.run = true) := by
    rintro ⟨_, hbusy, hrun⟩
    rcases hfree with h | h
    · exact isr_absurd_busy h hbusy
    · simp [h] at hrun
  have halready : ¬(i = .start ∧ s.run = true) := fun ⟨hi, hrun⟩ => by simp [hstart hi] at hrun
  simp only [refusedFor, hwf, hbuild, hidle, hconsumed, halready, Bool.true_eq_false,
    Bool.false_eq_true, if_false]

/-! ## `WRPIX` (R102) -/

theorem frameRead_putCell_same (m : List (Nat × Elem)) (r c : Nat) (ch : Channel) (v : Elem) :
    frameRead (putCell m (frameIndex r c ch) v) r c ch = v := frameElem_putCell_same m _ v

theorem frameRead_putCell_ne (m : List (Nat × Elem)) {r c r' c' : Nat} {ch ch' : Channel} (v : Elem)
    (hc : c < Config.C) (hc' : c' < Config.C) (h : ¬(r' = r ∧ c' = c ∧ ch' = ch)) :
    frameRead (putCell m (frameIndex r c ch) v) r' c' ch' = frameRead m r' c' ch' :=
  frameElem_putCell_ne m v fun heq => h (frameIndex_inj hc' hc heq)

theorem exec_wrpix_outOfRange {row : BitVec 3} {col : BitVec 4} (ch : Channel) (v : Elem) (s : State)
    (h : Config.R ≤ row.toNat ∨ Config.C ≤ col.toNat) :
    exec (.wrpix row col ch v) s =
      .next { s with refused := true, outcome := .refuse .operandRange } := by
  have hwf : (Instr.wrpix row col ch v).wf = false :=
    decide_eq_false fun ⟨hrow, hcol⟩ => by rcases h with h | h <;> omega
  exact exec_of_refused (by simp [refusedFor, hwf])

/-- Settles O16: the write is of one element of the frame, and distinct elements have distinct indices. -/
theorem wrpixWritesOneElement : Obligations.WrpixWritesOneElement := by
  intro row col ch v s
  refine ⟨(fields_encode_wrpix row col ch v).1, exec_wrpix_outOfRange ch v s, fun hrow hcol => ?inRange⟩
  have hwf : (Instr.wrpix row col ch v).wf = true := decide_eq_true ⟨hrow, hcol⟩
  refine ⟨exec_of_held hwf rfl, fun hidle hbusy hrun => ?consumed, fun hidle hfree => ?written⟩
  case consumed => exact exec_of_refused (refusedFor_hostConsumed rfl hwf rfl hidle hbusy hrun)
  case written =>
    exact ⟨_, exec_of_hostFree hwf rfl hidle hfree nofun, rfl, frameRead_putCell_same _ _ _ _ _,
      fun r c ch' hc hne => frameRead_putCell_ne _ v hcol hc hne⟩

/-! ## `START` (R104) -/

/-- Settles O19: the pass first, then the engine's state, in the order of the reasons' codes. -/
theorem startSetsRun : Obligations.StartSetsRun := by
  intro s
  refine ⟨decodeEncodeRoundTrip .start rfl, exec_of_held (i := .start) rfl rfl,
    fun hidle hbusy hrun => ?consumed, fun hidle hisr hrun => ?already, fun hidle hrun => ?started⟩
  case consumed => exact exec_of_refused (refusedFor_hostConsumed rfl rfl rfl hidle hbusy hrun)
  case already =>
    refine exec_of_refused ?_
    simp [refusedFor, Instr.wf, Instr.inBuild, heldWhen, hidle, hisr, hrun]
  case started => exact exec_of_hostFree rfl rfl hidle (.inr hrun) fun _ => hrun

/-! ## `SCSTEP` (R103) -/

theorem scaleStep_scale_of_up {h : ScaleState} (hdir : h.dir = .up) :
    (scaleStep h).scale.toNat = (h.scale.toNat + 1) % 65536 := by
  simp only [scaleStep, hdir]
  split_ifs <;> simp

theorem scaleStep_scale_of_down {h : ScaleState} (hdir : h.dir = .down) :
    (scaleStep h).scale.toNat = (h.scale.toNat + 65535) % 65536 := by
  simp only [scaleStep, hdir]
  split_ifs <;> simp [BitVec.toNat_sub, Nat.add_comm]

/-- The two bound comparisons, made on the scale after the move. -/
theorem scaleStep_bounds (h : ScaleState) :
    ((scaleStep h).scale.toNat ≤ Config.SCALE_LO →
      (scaleStep h).dir = .up ∧ (scaleStep h).orient = !h.orient) ∧
    (Config.SCALE_LO < (scaleStep h).scale.toNat → (scaleStep h).scale.toNat < Config.SCALE_HI →
      (scaleStep h).dir = h.dir ∧ (scaleStep h).orient = h.orient) ∧
    (Config.SCALE_HI ≤ (scaleStep h).scale.toNat →
      (scaleStep h).dir = .down ∧ (scaleStep h).orient = h.orient) := by
  simp only [scaleStep]
  split_ifs with hlow hhigh hhigh
  · simp only [Config.SCALE_LO, Config.SCALE_HI] at hlow hhigh
    omega
  · exact ⟨fun _ => ⟨rfl, rfl⟩, fun hr => absurd hlow hr.not_ge, fun hr => absurd hr hhigh⟩
  · exact ⟨fun hr => absurd hr hlow, fun _ hr => absurd hhigh hr.not_ge, fun _ => ⟨rfl, rfl⟩⟩
  · exact ⟨fun hr => absurd hr hlow, fun _ _ => ⟨rfl, rfl⟩, fun hr => absurd hr hhigh⟩

/-- Settles O18: the refusal and the hold are decided before the move, and the bounds after it. -/
theorem scstepAnimates : Obligations.ScstepAnimates := by
  intro s
  refine ⟨decodeEncodeRoundTrip .scstep rfl, fun hbusy => ?refused,
    fun hisr => exec_of_held (i := .scstep) rfl (decide_eq_true hisr), fun hisr hidle => ?animated⟩
  case refused =>
    exact exec_of_refused (refusedFor_wrongStrategy rfl (decide_eq_false (by simp [hbusy])))
  case animated =>
    obtain ⟨hlow, hbetween, hhigh⟩ := scaleStep_bounds s.host
    refine ⟨scaleStep s.host, ?moved, hlow, hbetween, hhigh,
      exec_of_hostFree (i := .scstep) rfl (decide_eq_true hisr) hidle (.inl hisr) nofun⟩
    cases hdir : s.host.dir with
    | up => exact scaleStep_scale_of_up hdir
    | down => exact scaleStep_scale_of_down hdir

/-! ## The range of the scale (R103) -/

theorem scaleInBounds_iff (s : State) :
    ScaleInBounds s ↔
      (s.host.dir = .up ∧ 1 ≤ s.host.scale.toNat ∧ s.host.scale.toNat < Config.SCALE_HI) ∨
      (s.host.dir = .down ∧
        Config.SCALE_LO < s.host.scale.toNat ∧ s.host.scale.toNat ≤ Config.SCALE_HI) := by
  cases hdir : s.host.dir <;> simp [ScaleInBounds, hdir]

theorem exec_host_cases {i : Instr} {s t : State} (h : exec i s = .next t) :
    t.host = s.host ∨ t.host = scaleStep s.host := by
  by_cases hi : i = .scstep
  · subst hi
    rcases exec_cases h with ⟨_, _, rfl⟩ | ⟨_, _, rfl⟩ | ⟨_, _, hbody⟩
    · exact .inl rfl
    · exact .inl rfl
    · cases hbody
      exact .inr rfl
  · rw [← exec_frame h]
    exact .inl (writesOf_host hi s t)

namespace ScaleInBounds

theorem of_same_host {s t : State} (h : ScaleInBounds s) (hhost : t.host = s.host) :
    ScaleInBounds t := by
  rw [scaleInBounds_iff] at h ⊢
  rwa [hhost]

/-- In its range a scale moves one place without wrapping, and turns where it reaches a bound. -/
theorem of_scaleStep {s t : State} (h : ScaleInBounds s) (hhost : t.host = scaleStep s.host) :
    ScaleInBounds t := by
  obtain ⟨hlow, hbetween, hhigh⟩ := scaleStep_bounds s.host
  rw [scaleInBounds_iff] at h ⊢
  rw [hhost]
  simp only [Config.SCALE_LO, Config.SCALE_HI] at *
  rcases h with ⟨hdir, hmin, hmax⟩ | ⟨hdir, hmin, hmax⟩
  case inl =>
    have hmoved := scaleStep_scale_of_up hdir
    by_cases htop : 510 ≤ (scaleStep s.host).scale.toNat
    · exact .inr ⟨(hhigh htop).1, by omega, by omega⟩
    · have hup : (scaleStep s.host).dir = .up := by
        by_cases hbottom : (scaleStep s.host).scale.toNat ≤ 2
        · exact (hlow hbottom).1
        · exact (hbetween (by omega) (by omega)).1.trans hdir
      exact .inl ⟨hup, by omega, by omega⟩
  case inr =>
    have hmoved := scaleStep_scale_of_down hdir
    by_cases hbottom : (scaleStep s.host).scale.toNat ≤ 2
    · exact .inl ⟨(hlow hbottom).1, by omega, by omega⟩
    · exact .inr ⟨(hbetween (by omega) (by omega)).1.trans hdir, by omega, by omega⟩

theorem exec {i : Instr} {s t : State} (hexec : exec i s = .next t) (h : ScaleInBounds s) :
    ScaleInBounds t :=
  (exec_host_cases hexec).elim h.of_same_host h.of_scaleStep

end ScaleInBounds

/-- Settles O55: the host's state moves by `SCSTEP` alone, and its move stays in the range. -/
theorem stepKeepsScaleInBounds : Obligations.StepKeepsScaleInBounds := by
  intro s t h hstep
  refine step_elim (P := fun s t => ScaleInBounds s → ScaleInBounds t) hstep
    (fun _ _ _ => ScaleInBounds.exec) (fun _ _ h => h.of_same_host rfl) (fun htaken h => ?_) h
  exact htaken (h.of_same_host (takeWord_host s))

end Sys2Proof.Machine

/-! Proofs of the statements of 41_packer.md: how two codes are packed (R120, R121), where a packed row reads its
frame row (R122, R123, R130), and the pass: its start (R126), its step (R127), and what it leaves in the buffer
(R128). -/

namespace Sys2Proof.Machine

/-! ## Codes (R120, R121) -/

theorem toNat_append_eq {m n : Nat} (x : BitVec m) (y : BitVec n) :
    (x ++ y).toNat = x.toNat * 2 ^ n + y.toNat := by
  rw [BitVec.toNat_append, ← Nat.shiftLeft_add_eq_or_of_lt y.isLt, Nat.shiftLeft_eq]

/-- Settles O21: each byte is a cut of the codes at bits 4 and 8, and the cuts put together are the codes again. -/
theorem pack12SplitsTwoCodes : Obligations.Pack12SplitsTwoCodes := by
  intro pv1 pv2
  have hfirst : (pack12 pv1 pv2).1.toNat = pv1.toNat / 16 := by
    simp only [pack12, BitVec.extractLsb_toNat, Nat.shiftRight_eq_div_pow]
    omega
  have hsecond : (pack12 pv1 pv2).2.1.toNat = (pv1.toNat % 16) * 16 + pv2.toNat / 256 := by
    simp only [pack12, toNat_append_eq, BitVec.extractLsb_toNat, Nat.shiftRight_eq_div_pow]
    omega
  have hthird : (pack12 pv1 pv2).2.2.toNat = pv2.toNat % 256 := by
    simp [pack12, BitVec.extractLsb_toNat]
  refine ⟨hfirst, hsecond, hthird, ?_⟩
  rw [hfirst, hsecond, hthird]
  omega

theorem code_toNat (v : Elem) (s : Scale) : (code v s).toNat = v.toNat * s.toNat % 4096 :=
  BitVec.toNat_ofNat _ 12

/-- Settles O22: 4096 divides `2^n`, so reducing modulo `2^n` first changes nothing. -/
theorem codeWrapsModulo4096 : Obligations.CodeWrapsModulo4096 := by
  intro v s
  refine ⟨code_toNat v s, fun n hn => ?_⟩
  have hdvd : 4096 ∣ 2 ^ n := pow_dvd_pow 2 hn
  rw [code_toNat, Nat.mod_mod_of_dvd _ hdvd]

/-! ## The columns a packed byte reads (R122, R123) -/

theorem columns_eq (p : Nat) (o : Bool) :
    columns p o =
      (if o then Config.C - 2 * p - 1 else 2 * p,
        if o then Config.C - (2 * p + 1) - 1 else 2 * p + 1) := by
  cases o with
  | false => rfl
  | true =>
    exact Prod.ext (Nat.sub_right_comm _ _ _) (show 8 - 2 - 2 * p = 8 - (2 * p + 1) - 1 by omega)

/-- Column `c` of one orientation is column `C - 1 - c` of the other. -/
theorem columns_mirrored (p : Nat) :
    columns p true = (Config.C - 1 - (columns p false).1, Config.C - 1 - (columns p false).2) := by
  rw [columns_eq, columns_eq]
  exact Prod.ext (Nat.sub_right_comm _ _ _) (Nat.sub_right_comm _ _ _)

theorem columns_lt {p : Nat} (hp : p < Config.NPAIR) (o : Bool) :
    (columns p o).1 < Config.C ∧ (columns p o).2 < Config.C := by
  simp only [Config.NPAIR, Config.C] at hp ⊢
  cases o with
  | false => exact ⟨show 2 * p < 8 by omega, show 2 * p + 1 < 8 by omega⟩
  | true => exact ⟨show 8 - 1 - 2 * p < 8 by omega, show 8 - 2 - 2 * p < 8 by omega⟩

theorem offsetPair_lt (off : Nat) : offsetPair off < Config.NPAIR := by
  simp only [offsetPair, Config.NPAIR, Config.HALF, Config.C]
  omega

/-- An offset's channel, pair and place are those it is made of (20_memory.md R65). -/
theorem offset_parts {p j : Nat} (ch : Channel) (hp : p < Config.NPAIR) (hj : j < 3) :
    offsetChannel (channelNumber ch * Config.HALF + 3 * p + j) = ch ∧
      offsetPair (channelNumber ch * Config.HALF + 3 * p + j) = p ∧
      (channelNumber ch * Config.HALF + 3 * p + j) % 3 = j := by
  simp only [offsetChannel, offsetPair, Config.HALF, Config.NPAIR, Config.C] at *
  cases ch with
  | green =>
    simp only [channelNumber]
    exact ⟨if_pos (by omega), by omega, by omega⟩
  | red =>
    simp only [channelNumber]
    exact ⟨if_neg (by omega), by omega, by omega⟩

/-- Settles O23: the offset's parts pick the two columns and the byte of their group. -/
theorem packedRowLayout : Obligations.PackedRowLayout := by
  intro f b p j ch s o hp hj
  obtain ⟨hch, hpair, hplace⟩ := offset_parts ch hp hj
  simp only [packedByte, hch, hpair, hplace, columns_eq]

/-- A packed byte depends only on the two elements its columns name. -/
theorem packedByte_congr {f f' : List (Nat × Elem)} {b off : Nat} {o o' : Bool} (s : Scale)
    (hfst : frameRead f b (columns (offsetPair off) o).1 (offsetChannel off) =
      frameRead f' b (columns (offsetPair off) o').1 (offsetChannel off))
    (hsnd : frameRead f b (columns (offsetPair off) o).2 (offsetChannel off) =
      frameRead f' b (columns (offsetPair off) o').2 (offsetChannel off)) :
    packedByte f b off s o = packedByte f' b off s o' := by
  simp only [packedByte, hfst, hsnd]

/-- Settles O24: the mirrored columns of `f` are the columns of `f'`. -/
theorem mirroringIsColumnReversal : Obligations.MirroringIsColumnReversal := by
  intro f f' b hreversed off s _
  obtain ⟨hfst, hsnd⟩ := columns_lt (offsetPair_lt off) false
  refine packedByte_congr s ?_ ?_ <;> rw [columns_mirrored]
  · exact (hreversed _ _ hfst).symm
  · exact (hreversed _ _ hsnd).symm

/-- Settles O25: both columns of a packed byte are columns of its row. -/
theorem packedRowReadsItsFrameRow : Obligations.PackedRowReadsItsFrameRow := by
  intro f f' b off s o _ hsame
  obtain ⟨hfst, hsnd⟩ := columns_lt (offsetPair_lt off) o
  exact packedByte_congr s (hsame _ _ hfst) (hsame _ _ hsnd)

/-! ## `ENCFRM` (R126) -/

/-- Settles O17: a pass in progress holds the word before the engine can refuse it. -/
theorem encfrmStartsPass : Obligations.EncfrmStartsPass := by
  intro scale orient s
  refine ⟨(fields_encode_encfrm scale orient).1, exec_of_held (i := .encfrm scale orient) rfl rfl,
    fun hidle hbusy hrun => ?consumed, fun hidle hfree => ?started⟩
  case consumed => exact exec_of_refused (refusedFor_hostConsumed rfl rfl rfl hidle hbusy hrun)
  case started => exact exec_of_hostFree (i := .encfrm scale orient) rfl rfl hidle hfree nofun

/-! ## `ENCSTEP` (R127) -/

/-- The state after the next byte of the pass is written. -/
def packNext (s : State) : State :=
  advancePass { s with pbuf := putCell s.pbuf s.enc.pos (nextPacked s) }

theorem exec_encstep {s : State} (hbusy : s.enc.busy = true) (hpos : s.enc.pos < s.cfg.pbufSize) :
    exec .encstep s = .next { packNext s with outcome := .ok } := by
  have hheld : heldWhen .encstep s = false := by simp [heldWhen, hbusy]
  have hr : refusedFor .encstep s = none := by
    simp [refusedFor, Instr.wf, Instr.inBuild, Instr.agent, hheld]
  rw [exec_of_enabled hr hheld, body, memWrite_in _ hpos]
  rfl

/-- Settles O20: inside the buffer the write of the packer's byte cannot fault. -/
theorem encstepWritesNextByte : Obligations.EncstepWritesNextByte := by
  intro s
  refine ⟨decodeEncodeRoundTrip .encstep rfl, fun hidle => ?held, fun hbusy hpos => ?written⟩
  case held => exact exec_of_held (i := .encstep) rfl rfl (by simp [heldWhen, hidle])
  case written =>
    refine ⟨_, exec_encstep hbusy hpos, ?_, pbufByte_putCell_same _ _ _,
      fun a ha => pbufByte_putCell_ne _ _ ha⟩
    simp [packNext, advancePass, hbusy]

/-! ## What a step does to the pass (R100, R127) -/

/-- The build, the encoder and the two memories are the same: all that a pass depends on. -/
def SamePass (s t : State) : Prop :=
  t.cfg = s.cfg ∧ t.enc = s.enc ∧ t.pbuf = s.pbuf ∧ t.frame = s.frame

theorem samePass_takeWord (s : State) : SamePass s (takeWord s) :=
  ⟨takeWord_cfg s, takeWord_enc s, takeWord_pbuf s, takeWord_frame s⟩

namespace SamePass

theorem trans {s t u : State} (hst : SamePass s t) (htu : SamePass t u) : SamePass s u := by
  obtain ⟨hcfg, henc, hpbuf, hframe⟩ := hst
  obtain ⟨hcfg', henc', hpbuf', hframe'⟩ := htu
  exact ⟨hcfg'.trans hcfg, henc'.trans henc, hpbuf'.trans hpbuf, hframe'.trans hframe⟩

theorem packNext {s t : State} (h : SamePass s t) : SamePass (packNext s) (packNext t) := by
  obtain ⟨hcfg, henc, hpbuf, hframe⟩ := h
  simp [SamePass, Machine.packNext, advancePass, nextPacked, hcfg, henc, hpbuf, hframe]

end SamePass

/-- Only a host's word may write the frame or start a pass, and only `ENCSTEP` may go on with one. -/
theorem writesOf_samePass {i : Instr} (hhost : i.agent ≠ .host) (hi : i ≠ .encstep) (s t : State) :
    SamePass s (writesOf i s t) := by
  cases i with
  | wrpix | encfrm | scstep | start => exact absurd rfl hhost
  | encstep => exact absurd rfl hi
  | tick | radv | bcmp | shbit | blstep => exact ⟨rfl, rfl, rfl, rfl⟩

theorem heldWhen_of_host {i : Instr} (hi : i.agent = .host) (s : State) :
    heldWhen i s = s.enc.busy := by
  cases i with
  | wrpix | encfrm | scstep | start => rfl
  | tick | radv | bcmp | shbit | encstep | blstep => cases hi

theorem exec_of_passBusy {i : Instr} {s t : State} (hbusy : s.enc.busy = true)
    (hpos : s.enc.pos < s.cfg.pbufSize) (hexec : exec i s = .next t) :
    SamePass s t ∨ SamePass (packNext s) t := by
  rcases exec_cases hexec with ⟨_, _, rfl⟩ | ⟨_, _, rfl⟩ | ⟨_, hheld, _⟩
  · exact .inl ⟨rfl, rfl, rfl, rfl⟩
  · exact .inl ⟨rfl, rfl, rfl, rfl⟩
  · have hhost : i.agent ≠ .host := fun hi => by simp [heldWhen_of_host hi, hbusy] at hheld
    by_cases hi : i = .encstep
    · subst hi
      rw [exec_encstep hbusy hpos] at hexec
      cases hexec
      exact .inr ⟨rfl, rfl, rfl, rfl⟩
    · rw [← exec_frame hexec]
      exact .inl (writesOf_samePass hhost hi s t)

/-- While a pass is in progress a step leaves it as it is or writes its next byte. -/
theorem step_of_passBusy {s t : State} (h : Inv s) (hbusy : s.enc.busy = true)
    (hstep : step s = .next t) : SamePass s t ∨ SamePass (packNext s) t := by
  have htake := samePass_takeWord s
  obtain ⟨_, ⟨i, _, hexec⟩ | ⟨r, _, rfl⟩⟩ := step_cases hstep
  · have hbusy' : (takeWord s).enc.busy = true := by rwa [takeWord_enc]
    exact (exec_of_passBusy hbusy' (h.afterTakeWord.posBusy hbusy') hexec).imp htake.trans
      htake.packNext.trans
  · exact .inl htake

theorem exec_of_passIdle {i : Instr} {s t : State} (hidle : s.enc.busy = false)
    (hexec : exec i s = .next t) : t.enc = s.enc ∨ t.enc.pos = 0 := by
  rcases exec_cases hexec with ⟨_, _, rfl⟩ | ⟨_, _, rfl⟩ | ⟨_, hheld, hbody⟩
  · exact .inl rfl
  · exact .inl rfl
  · cases i with
    | encfrm | scstep =>
      cases hbody
      exact .inr rfl
    | encstep => simp [heldWhen, hidle] at hheld
    | wrpix | start | tick | radv | bcmp | shbit | blstep =>
      rw [← exec_frame hexec]
      exact .inl rfl

/-- With no pass in progress a step can only start one, which has written nothing yet. -/
theorem step_of_passIdle {s t : State} (hidle : s.enc.busy = false) (hstep : step s = .next t) :
    t.enc = s.enc ∨ t.enc.pos = 0 := by
  rw [← takeWord_enc s] at hidle ⊢
  obtain ⟨_, ⟨i, _, hexec⟩ | ⟨r, _, rfl⟩⟩ := step_cases hstep
  · exact exec_of_passIdle hidle hexec
  · exact .inl rfl

/-! ## What a pass has written (R128) -/

/-- The bytes below `ENC_POS` are the packer's on the current frame: `PassPrefix`, but kept when the pass ends. -/
def PackedBelowPos (s : State) : Prop :=
  ∀ a, a < s.enc.pos →
    pbufByte s.pbuf a =
      packedByte s.frame (a / Config.L) (a % Config.L) s.enc.scale s.enc.orient

theorem passPrefix_iff (s : State) : PassPrefix s ↔ (s.enc.busy = true → PackedBelowPos s) := Iff.rfl

namespace PackedBelowPos

theorem of_samePass {s t : State} (h : PackedBelowPos s) (hsame : SamePass s t) : PackedBelowPos t := by
  obtain ⟨_, henc, hpbuf, hframe⟩ := hsame
  simpa only [PackedBelowPos, henc, hpbuf, hframe] using h

theorem packNext {s : State} (h : PackedBelowPos s) : PackedBelowPos (packNext s) := by
  intro a ha
  rcases Nat.lt_succ_iff_lt_or_eq.mp ha with hlt | rfl
  · exact (pbufByte_putCell_ne _ _ hlt.ne).trans (h a hlt)
  · exact pbufByte_putCell_same _ _ _

theorem step {s t : State} (hinv : Inv s) (hbusy : s.enc.busy = true) (h : PackedBelowPos s)
    (hstep : step s = .next t) : PackedBelowPos t :=
  (step_of_passBusy hinv hbusy hstep).elim h.of_samePass h.packNext.of_samePass

end PackedBelowPos

/-- Settles O26: a step in a pass writes at most its next byte, and a step out of one at most starts one. -/
theorem stepKeepsPassPrefix : Obligations.StepKeepsPassPrefix := by
  intro s t hinv hprefix hstep hbusy'
  cases hbusy : s.enc.busy with
  | true => exact PackedBelowPos.step hinv hbusy (hprefix hbusy) hstep
  | false =>
    intro a ha
    rcases step_of_passIdle hbusy hstep with henc | hpos
    · simp [henc, hbusy] at hbusy'
    · simp [hpos] at ha

/-- A pass ends by writing its last byte, with its operands still latched. -/
theorem step_ends_pass {s t : State} (h : Inv s) (hbusy : s.enc.busy = true)
    (hend : t.enc.busy = false) (hstep : step s = .next t) :
    t.enc.pos = t.cfg.pbufSize ∧ t.enc.scale = s.enc.scale ∧ t.enc.orient = s.enc.orient := by
  rcases step_of_passBusy h hbusy hstep with ⟨_, henc, _⟩ | ⟨hcfg, henc, _⟩
  · simp [henc, hbusy] at hend
  · have hlast : s.enc.pos + 1 = s.cfg.pbufSize := by
      simpa [henc, packNext, advancePass, hbusy] using hend
    rw [hcfg, henc]
    exact ⟨hlast, rfl, rfl⟩

/-- The address of a packed row's byte is inside the buffer, and gives back the row and the offset
(20_memory.md R64). -/
theorem rowAddr_parts {b n off : Nat} (hb : b < n) (hoff : off < Config.L) :
    b * Config.L + off < n * Config.L ∧
      (b * Config.L + off) / Config.L = b ∧ (b * Config.L + off) % Config.L = off := by
  simp only [Config.L, Config.C] at *
  omega

/-- Settles O27: where the pass ends, the bytes below `ENC_POS` are the whole buffer. -/
theorem completedPassEncodesFrame : Obligations.CompletedPassEncodesFrame := by
  intro s t hinv hprefix hstep hbusy hend
  have hpacked : PackedBelowPos t := PackedBelowPos.step hinv hbusy (hprefix hbusy) hstep
  obtain ⟨hpos, hscale, horient⟩ := step_ends_pass hinv hbusy hend hstep
  refine ⟨hend, fun b off hb hoff => ?_⟩
  obtain ⟨hin, hrow, hplace⟩ := rowAddr_parts hb hoff
  rw [hpacked _ (hpos ▸ hin), hrow, hplace, hscale, horient]

end Sys2Proof.Machine

/-! Proofs of the statements of 42_scan_isr.md: the order of the selected rows (R151), the row timer (R144), the words
`TICK` (R143), `SHBIT` (R147), `RADV` (R149, R150) and `BCMP` (R154, R155), the one fault of a run (R146), and the
row transfer, with ticks and without (R156, R158). -/

namespace Sys2Proof.Machine

/-! ## The selected rows (R151, R175) -/

@[simp] theorem rowselEvents_nil : rowselEvents [] = [] := rfl

@[simp] theorem rowselEvents_bit (l : Line) (v : Bool) (es : List LineEvent) :
    rowselEvents (.bit l v :: es) = rowselEvents es := rfl

@[simp] theorem rowselEvents_rowsel (v : BitVec 8) (es : List LineEvent) :
    rowselEvents (.rowsel v :: es) = v :: rowselEvents es := rfl

@[simp] theorem rowselEvents_append (tr es : List LineEvent) :
    rowselEvents (tr ++ es) = rowselEvents tr ++ rowselEvents es := List.filterMap_append

/-- The row a strategy selects when it moves on from row `r`: the ISR strategy selects before it advances, the
busy loop after. -/
def rowShownFrom (strat : Strategy) (r : BitVec 3) : BitVec 3 :=
  match strat with
  | .isr => r
  | .busy => r + 1#3

theorem rowShownFrom_eq_selectedRow (strat : Strategy) (k : Nat) :
    rowShownFrom strat (BitVec.ofNat 3 (Config.ROW_INIT + k)) = selectedRow strat k := by
  cases strat with
  | isr => rfl
  | busy => exact (BitVec.ofNat_add _ 1).symm

/-- In the same build, no row is selected and `ROW` stays. -/
def SameRow (s t : State) : Prop :=
  t.cfg = s.cfg ∧ t.scan.row = s.scan.row ∧ rowselEvents t.trace = rowselEvents s.trace

/-- In the same build, the strategy's row is selected and `ROW` moves on. -/
def NextRow (s t : State) : Prop :=
  t.cfg = s.cfg ∧ t.scan.row = s.scan.row + 1#3 ∧
    rowselEvents t.trace =
      rowselEvents s.trace ++ [selectMask (rowShownFrom s.cfg.strat s.scan.row)]

/-- The Row-Advance handler selects a row even where its transmit write then faults. -/
theorem radv_nextRow {s : State} (hisr : s.cfg.strat = .isr) (s₀ : State) :
    NextRow s (settled s₀ (body .radv s)) := by
  rcases rowAdvance_cases { s with irq := { s.irq with raPend := false } } with
    ⟨_, _, _, _, e⟩ | ⟨_, _, _, _, e⟩ | ⟨_, _, _, e⟩ <;>
    simp [body, e, settled, NextRow, rowShownFrom, hisr]

theorem loopCount_rows {s : State} (hbusy : s.cfg.strat = .busy) :
    SameRow s (loopCount s) ∨ NextRow s (loopCount s) := by
  simp only [loopCount]
  split
  · exact .inr (by simp [NextRow, rowShownFrom, hbusy])
  · exact .inl (by simp [SameRow])

theorem SameRow.trans_rows {s t u : State} (hst : SameRow s t) (htu : SameRow t u ∨ NextRow t u) :
    SameRow s u ∨ NextRow s u := by
  obtain ⟨hcfg, hrow, htrace⟩ := hst
  simpa only [SameRow, NextRow, hcfg, hrow, htrace] using htu

/-- An iteration of the busy loop selects a row where it ends its window, and nowhere else. -/
theorem iteration_rows {s : State} (hbusy : s.cfg.strat = .busy) (s₀ : State) :
    SameRow s (settled s₀ (body .blstep s)) ∨ NextRow s (settled s₀ (body .blstep s)) := by
  rcases shiftBit_cases s with ⟨byte, _, _, _, e⟩ | ⟨_, e⟩ | ⟨_, _, e⟩ <;>
    simp only [body, e, andThen_ok, andThen_fault]
  · exact SameRow.trans_rows (by simp [SameRow]) (loopCount_rows hbusy)
  · exact loopCount_rows hbusy
  · exact .inl ⟨rfl, rfl, rfl⟩

theorem exec_rows {i : Instr} {s t : State} (hexec : exec i s = .next t) : SameRow s t ∨ NextRow s t := by
  rcases exec_cases hexec with ⟨_, _, rfl⟩ | ⟨_, _, rfl⟩ | ⟨hr, _, hbody⟩
  · exact .inl ⟨rfl, rfl, rfl⟩
  · exact .inl ⟨rfl, rfl, rfl⟩
  · obtain ⟨_, hbuild⟩ := inBuild_of_not_refused hr
    cases i with
    | wrpix | encfrm | scstep | start | bcmp | encstep =>
      rw [← exec_frame hexec]
      exact .inl ⟨rfl, rfl, rfl⟩
    | tick | shbit =>
      cases hbody
      exact .inl (by simp [SameRow, body, settled])
    | radv =>
      cases hbody
      exact .inr (radv_nextRow (of_decide_eq_true hbuild) s)
    | blstep =>
      cases hbody
      exact iteration_rows (of_decide_eq_true hbuild) s

namespace RowCycleOrder

theorem of_sameRow {s t : State} (h : RowCycleOrder s) (hst : SameRow s t) : RowCycleOrder t := by
  obtain ⟨hcfg, hrow, htrace⟩ := hst
  simpa only [RowCycleOrder, hcfg, hrow, htrace] using h

/-- With `n` rows selected so far, the strategy shows row `n` of its order next. -/
theorem of_nextRow {s t : State} (h : RowCycleOrder s) (hst : NextRow s t) : RowCycleOrder t := by
  obtain ⟨hrow, horder⟩ := h
  obtain ⟨hcfg, hrow', htrace⟩ := hst
  have hshown := rowShownFrom_eq_selectedRow s.cfg.strat (rowselEvents s.trace).length
  rw [← hrow] at hshown
  have hlen : (rowselEvents t.trace).length = (rowselEvents s.trace).length + 1 := by simp [htrace]
  constructor
  · rw [hlen, hrow', hrow]
    exact (BitVec.ofNat_add _ 1).symm
  · rw [hlen, List.range_succ, List.map_append, hcfg, ← horder, htrace, hshown]
    rfl

theorem exec {i : Instr} {s t : State} (hexec : exec i s = .next t) (h : RowCycleOrder s) :
    RowCycleOrder t :=
  (exec_rows hexec).elim h.of_sameRow h.of_nextRow

end RowCycleOrder

/-- Settles O52: an instruction selects no row or the next one of its strategy's order. -/
theorem stepKeepsRowCycleOrder : Obligations.StepKeepsRowCycleOrder := by
  intro s t h hstep
  refine step_elim (P := fun s t => RowCycleOrder s → RowCycleOrder t) hstep
    (fun _ _ _ => RowCycleOrder.exec) (fun _ _ h => h.of_sameRow ⟨rfl, rfl, rfl⟩) (fun htaken h => ?_) h
  exact htaken (h.of_sameRow ⟨takeWord_cfg s, by rw [takeWord_scan], by rw [takeWord_trace]⟩)

/-! ## The row timer (R143, R144) -/

@[simp] theorem rises_append (l : Line) (tr es : List LineEvent) :
    rises l (tr ++ es) = rises l tr + rises l es := List.count_append

theorem timerCount_tcnt (s : State) :
    (timerCount s).tcnt = if s.tcnt + 1 = s.cfg.rowPeriod then 0 else s.tcnt + 1 := by
  simp only [timerCount]
  split <;> rfl

/-- In an `ISR` build, neither a clock pulse nor a count, or one of each. -/
theorem exec_isr_clock {i : Instr} {s t : State} (hisr : s.cfg.strat = .isr)
    (hexec : exec i s = .next t) :
    (rises .gsclk t.trace = rises .gsclk s.trace ∧ t.tcnt = s.tcnt) ∨
    (rises .gsclk t.trace = rises .gsclk s.trace + 1 ∧
      t.tcnt = if s.tcnt + 1 = s.cfg.rowPeriod then 0 else s.tcnt + 1) := by
  rcases exec_cases hexec with ⟨_, _, rfl⟩ | ⟨_, _, rfl⟩ | ⟨hr, _, hbody⟩
  · exact .inl ⟨rfl, rfl⟩
  · exact .inl ⟨rfl, rfl⟩
  · obtain ⟨_, hbuild⟩ := inBuild_of_not_refused hr
    cases i with
    | wrpix | encfrm | scstep | start | bcmp | encstep =>
      rw [← exec_frame hexec]
      exact .inl ⟨rfl, rfl⟩
    | tick =>
      cases hbody
      exact .inr ⟨by simp [body, settled, rises], timerCount_tcnt _⟩
    | shbit =>
      cases hbody
      exact .inl (by simp [body, settled, rises])
    | radv =>
      cases hbody
      rcases rowAdvance_cases { s with irq := { s.irq with raPend := false } } with
        ⟨_, _, _, _, e⟩ | ⟨_, _, _, _, e⟩ | ⟨_, _, _, e⟩ <;>
        exact .inl (by simp [body, e, settled, rises])
    | blstep => simp [Instr.inBuild, hisr] at hbuild

namespace TimerCountsPulses

theorem of_same {s t : State} (h : TimerCountsPulses s) (hcfg : t.cfg = s.cfg)
    (hrises : rises .gsclk t.trace = rises .gsclk s.trace) (htcnt : t.tcnt = s.tcnt) :
    TimerCountsPulses t := by
  simpa only [TimerCountsPulses, hcfg, hrises, htcnt] using h

theorem exec {i : Instr} {s t : State} (hc : s.cfg.wf = true) (hexec : exec i s = .next t)
    (h : TimerCountsPulses s) : TimerCountsPulses t := by
  obtain ⟨_, _, _, hcfg⟩ := hostStateHasOneWriter i s t hexec
  obtain ⟨_, _, hperiod, _⟩ := openParameters_of_wf hc
  intro hisr
  rw [hcfg] at hisr ⊢
  have hcount := h hisr
  have hlt := Nat.mod_lt (rises .gsclk s.trace) hperiod
  rcases exec_isr_clock hisr hexec with ⟨hrises, htcnt⟩ | ⟨hrises, htcnt⟩
  · rw [hrises, htcnt, hcount]
  · rw [hrises, htcnt, ← Nat.mod_add_mod, hcount]
    split_ifs with hmatch
    · rw [hmatch, Nat.mod_self]
    · exact Nat.mod_eq_of_lt (by omega)

end TimerCountsPulses

/-- Settles O53: an instruction of an `ISR` build pulses the clock when it counts, and the count starts again
at `ROW_PERIOD`. -/
theorem stepKeepsTimerCount : Obligations.StepKeepsTimerCount := by
  intro s t h hstep
  have htaken : TimerCountsPulses (takeWord s) :=
    h.of_same (takeWord_cfg s) (by rw [takeWord_trace]) (takeWord_tcnt s)
  obtain ⟨⟨hc, _⟩, ⟨i, _, hexec⟩ | ⟨r, _, rfl⟩⟩ := step_cases hstep
  · exact htaken.exec (by rwa [takeWord_cfg]) hexec
  · exact htaken.of_same rfl rfl rfl

/-! ## The words of the ISR build (R88, R143, R147, R149, R154) -/

theorem exec_of_otherBuild {i : Instr} {s : State} (hwf : i.wf = true) (hi : i.inBuild .busy = false)
    (hbusy : s.cfg.strat = .busy) :
    exec i s = .next { s with refused := true, outcome := .refuse .wrongStrategy } :=
  exec_of_refused (refusedFor_wrongStrategy hwf (by rwa [hbusy]))

/-- Past the build, only a host word is refused (60_exceptions.md R201). -/
theorem refusedFor_of_not_host {i : Instr} {s : State} (hi : i.agent ≠ .host)
    (hbuild : i.inBuild s.cfg.strat = true) : refusedFor i s = none := by
  have hwf : i.wf = true := by
    cases i with
    | wrpix => exact absurd rfl hi
    | _ => rfl
  have hstart : i ≠ .start := fun h => hi (h ▸ rfl)
  simp [refusedFor, hwf, hbuild, hi, hstart]

theorem exec_of_not_host {i : Instr} {s : State} (hi : i.agent ≠ .host)
    (hbuild : i.inBuild s.cfg.strat = true) (hheld : heldWhen i s = false) :
    exec i s = settle s (body i s) := exec_of_enabled (refusedFor_of_not_host hi hbuild) hheld

/-! ## `TICK` (R143) -/

theorem timerCount_of_match {s : State} (h : s.tcnt + 1 = s.cfg.rowPeriod) :
    timerCount s = { s with tcnt := 0, irq := requestRa s.irq } := if_pos h

theorem timerCount_of_no_match {s : State} (h : s.tcnt + 1 ≠ s.cfg.rowPeriod) :
    timerCount s = { s with tcnt := s.tcnt + 1 } := if_neg h

theorem exec_tick {s : State} (hisr : s.cfg.strat = .isr) (hrun : s.run = true) :
    exec .tick s = .next { timerCount (withEvents s (pulseEvents .gsclk)) with outcome := .ok } := by
  rw [exec_of_not_host (i := .tick) nofun (decide_eq_true hisr) (by simp [heldWhen, hrun]), body,
    pulse_eq_withEvents, settle_ok]

/-- Settles O28: the clock pulse touches neither the count nor the request, so the compare match is the
state's own. -/
theorem tickCountsAndRequests : Obligations.TickCountsAndRequests := by
  intro s
  refine ⟨decodeEncodeRoundTrip .tick rfl, exec_of_otherBuild rfl rfl, fun hisr hrun => ?held,
    fun hisr hrun hmatch => ?matched, fun hisr hrun hcount => ?counted⟩
  case held => exact exec_of_held (i := .tick) rfl (decide_eq_true hisr) (by simp [heldWhen, hrun])
  case matched =>
    rw [exec_tick hisr hrun, timerCount_of_match (s := withEvents s _) hmatch]
    rfl
  case counted =>
    rw [exec_tick hisr hrun, timerCount_of_no_match (s := withEvents s _) hcount]
    rfl

/-! ## `SHBIT` (R147) -/

theorem shiftedBit_eq_withEvents (v : Bool) (s : State) :
    pulse .sclk (emit .sin v s) = withEvents s (bitEvents v) := by
  rw [pulse_eq_withEvents, emit_eq_withEvents, withEvents_append]
  rfl

theorem shiftRegister_of_eighth {s : State} (h : s.shifter.shcnt = 7#3) :
    shiftRegister s =
      { s with shifter := { txBusy := false, shreg := s.shifter.shreg <<< 1, shcnt := 0#3 },
               irq := requestBc s.irq } := if_pos h

theorem shiftRegister_of_not_eighth {s : State} (h : s.shifter.shcnt ≠ 7#3) :
    shiftRegister s =
      { s with shifter := { s.shifter with shreg := s.shifter.shreg <<< 1,
                                           shcnt := s.shifter.shcnt + 1#3 } } := if_neg h

theorem exec_shbit {s : State} (hisr : s.cfg.strat = .isr) (htx : s.shifter.txBusy = true) :
    exec .shbit s = .next
      { shiftRegister (withEvents s (bitEvents (s.shifter.shreg.getLsbD 7))) with outcome := .ok } := by
  rw [exec_of_not_host (i := .shbit) nofun (decide_eq_true hisr) (by simp [heldWhen, htx]), body,
    shiftedBit_eq_withEvents, settle_ok]

theorem toNat_shiftLeft_one (x : Byte) : (x <<< 1).toNat = x.toNat * 2 % 256 := by
  rw [BitVec.toNat_shiftLeft, Nat.shiftLeft_eq, pow_one]

/-- Settles O29: the register moves one place after its bit 7 is out, and the count tells the eighth bit. -/
theorem shbitShiftsOneBit : Obligations.ShbitShiftsOneBit := by
  intro s
  refine ⟨decodeEncodeRoundTrip .shbit rfl, exec_of_otherBuild rfl rfl, fun hisr htx => ?held,
    fun hisr htx => ⟨s.shifter.shreg <<< 1, toNat_shiftLeft_one _, fun h => ?eighth, fun h => ?other⟩⟩
  case held => exact exec_of_held (i := .shbit) rfl (decide_eq_true hisr) (by simp [heldWhen, htx])
  case eighth =>
    rw [exec_shbit hisr htx, shiftRegister_of_eighth (s := withEvents s _) h]
    rfl
  case other =>
    rw [exec_shbit hisr htx, shiftRegister_of_not_eighth (s := withEvents s _) h, ← htx]
    rfl

/-! ## The transmit register (R146) -/

theorem txLoad_in {s : State} {a : Nat} (h : a < s.cfg.pbufSize) :
    txLoad (a : Int) s = txWrite (pbufByte s.pbuf a) s := by simp [txLoad, memRead_in h]

theorem txWrite_of_idle {s : State} (h : s.shifter.txBusy = false) (v : Byte) :
    txWrite v s = .ok { s with shifter := { txBusy := true, shreg := v, shcnt := 0#3 } } := by
  simp [txWrite, h]

theorem txWrite_of_shifting {s : State} (h : s.shifter.txBusy = true) (v : Byte) :
    txWrite v s = .fault (.txCollision v) { s with faults := addFault s.faults (.txCollision v) } := by
  simp [txWrite, h, raise]

/-! ## `RADV` (R149, R150) -/

/-- The line events of a Row-Advance up to its transmit write: blank, latch, select. -/
def advanceEvents (r : BitVec 3) : List LineEvent :=
  [.bit .blank true, .bit .xlat true, .bit .xlat false, .rowsel (selectMask r)]

/-- `ROW` advanced and `CNT` reset. -/
def advancedScan (x : ScanState) : ScanState := { x with row := x.row + 1#3, cnt := 23#16 }

theorem rowAdvanceHead_eq_withEvents (s : State) :
    rowAdvanceHead s = { withEvents s (advanceEvents s.scan.row) with scan := advancedScan s.scan } := by
  simp only [rowAdvanceHead, emit_eq_withEvents, pulse_eq_withEvents, setRowSel_eq_withEvents,
    withEvents_append]
  rfl

/-- Byte 0 of the row a Row-Advance moves on to. -/
def firstByte (s : State) : Byte := pbufByte s.pbuf (rowBase s.cfg (s.scan.row + 1#3))

theorem rowBase_lt {c : Config} (hc : c.wf = true) (r : BitVec 3) : rowBase c r < c.pbufSize := by
  have h := rowBase_add_lt hc r (k := 0) (by decide)
  rwa [Nat.add_zero] at h

/-- In a well-formed build a Row-Advance reads byte 0 of its row, so only its transmit write can fault. -/
theorem rowAdvance_eq {s : State} (hc : s.cfg.wf = true) :
    rowAdvance s =
      andThen (txWrite (firstByte s) (rowAdvanceHead s)) fun t => .ok (emit .blank false t) := by
  have hin : rowBase s.cfg (s.scan.row + 1#3) < (rowAdvanceHead s).cfg.pbufSize := by
    rw [rowAdvanceHead_cfg]
    exact rowBase_lt hc _
  simp only [rowAdvance, rowAdvanceHead_cfg, rowAdvanceHead_scan, txLoad_in hin, rowAdvanceHead_pbuf,
    firstByte]

/-- The state a Row-Advance body begins in: its request is taken (60_exceptions.md R207). -/
def raTaken (s : State) : State := { s with irq := { s.irq with raPend := false } }

/-- A Row-Advance request is pending and its handler is not held (R149, 60_exceptions.md R205), in a
well-formed build. -/
structure RadvReady (s : State) : Prop where
  cfgWf : s.cfg.wf = true
  isr : s.cfg.strat = .isr
  run : s.run = true
  raPend : s.irq.raPend = true
  order : s.cfg.irqOrder = .bcFirst → s.irq.bcPend = false

/-- The state after a Row-Advance that found the shifter idle. -/
def rowAdvanced (s : State) : State :=
  { withEvents s (advanceEvents s.scan.row ++ [.bit .blank false]) with
    scan := advancedScan s.scan
    shifter := { txBusy := true, shreg := firstByte s, shcnt := 0#3 }
    irq := { s.irq with raPend := false }
    outcome := .ok }

/-- The state after a Row-Advance that found a byte still shifting. -/
def rowAdvanceCollided (s : State) : State :=
  { withEvents s (advanceEvents s.scan.row) with
    scan := advancedScan s.scan
    irq := { s.irq with raPend := false }
    faults := addFault s.faults (.txCollision (firstByte s))
    outcome := .fault (.txCollision (firstByte s)) }

namespace RadvReady

variable {s : State}

theorem exec_eq (h : RadvReady s) :
    exec .radv s = settle s (rowAdvance (raTaken s)) := by
  refine exec_of_not_host (i := .radv) nofun (decide_eq_true h.isr) ?_
  cases ho : s.cfg.irqOrder with
  | bcFirst => simp [heldWhen, h.run, h.raPend, h.order ho]
  | any | raFirst => simp [heldWhen, h.run, h.raPend, ho]

theorem exec_of_idle (h : RadvReady s) (htx : s.shifter.txBusy = false) :
    exec .radv s = .next (rowAdvanced s) := by
  rw [h.exec_eq, rowAdvance_eq (s := raTaken s) h.cfgWf,
    txWrite_of_idle (s := rowAdvanceHead (raTaken s)) htx]
  simp [rowAdvanced, rowAdvanceHead_eq_withEvents, withEvents, emit, firstByte, applyEvent,
    raTaken]

theorem exec_of_shifting (h : RadvReady s) (htx : s.shifter.txBusy = true) :
    exec .radv s = .next (rowAdvanceCollided s) := by
  rw [h.exec_eq, rowAdvance_eq (s := raTaken s) h.cfgWf,
    txWrite_of_shifting (s := rowAdvanceHead (raTaken s)) htx, rowAdvanceHead_eq_withEvents]
  rfl

end RadvReady

theorem radv_held {s : State} (h : s.run = false ∨ s.irq.raPend = false ∨
    (s.cfg.irqOrder = .bcFirst ∧ s.irq.bcPend = true)) : heldWhen .radv s = true := by
  rcases h with h | h | ⟨ho, hp⟩
  · simp [heldWhen, h]
  · simp [heldWhen, h]
  · simp [heldWhen, ho, hp]

/-- Settles O30: the head's events come before the transmit write, and lifting the blanking after it. -/
theorem radvAdvancesRow : Obligations.RadvAdvancesRow := by
  intro s
  refine ⟨decodeEncodeRoundTrip .radv rfl, exec_of_otherBuild rfl rfl,
    fun hisr h => exec_of_held (i := .radv) rfl (decide_eq_true hisr) (radv_held h), ?_⟩
  rintro hc hisr hrun hra horder byte rfl
  have hready : RadvReady s := ⟨hc, hisr, hrun, hra, horder⟩
  exact ⟨hready.exec_of_idle, hready.exec_of_shifting⟩

/-! ## `BCMP` (R154, R155) -/

/-- The state a Byte-Complete body begins in: its request is taken (60_exceptions.md R207). -/
def bcTaken (s : State) : State := { s with irq := { s.irq with bcPend := false } }

/-- The byte counter one lower. -/
def countedDown (s : State) : State := { s with scan := { s.scan with cnt := s.scan.cnt - 1#16 } }

theorem cnt_ofNat_toInt {k : Nat} (hk : k < Config.L) : (BitVec.ofNat 16 k).toInt = k := by
  simp only [Config.L, Config.C] at hk
  rw [BitVec.toInt_eq_toNat_of_lt] <;> simp <;> omega

theorem byteComplete_of_neg {s : State} (h : s.scan.cnt.toInt < 0) : byteComplete s = .ok s := by
  simp [byteComplete, cntNegative, h]

theorem byteComplete_of_zero {s : State} (h : s.scan.cnt.toInt = 0) :
    byteComplete s = .ok (countedDown s) := by
  have hcnt : cntNegative s.scan.cnt = false := (cntNegative_eq_false_iff _).mpr (by omega)
  have hdown : cntNegative (s.scan.cnt - 1#16) = true := by
    simp [cntNegative, cnt_sub_one_toInt h.ge, h]
  simp [byteComplete, hcnt, hdown, countedDown]

/-- A counter of at least 1 has byte `L - CNT` of the row written next, at an address of the buffer. -/
theorem byteComplete_of_pos {s : State} {a : Nat} (hc : s.cfg.wf = true) (h : 1 ≤ s.scan.cnt.toInt)
    (ha : s.scan.cnt.toInt = (Config.L : Int) - a) :
    byteComplete s =
      txWrite (pbufByte s.pbuf (rowBase s.cfg s.scan.row + a)) (countedDown s) := by
  have hcnt : cntNegative s.scan.cnt = false := (cntNegative_eq_false_iff _).mpr (by omega)
  have hsub : (s.scan.cnt - 1#16).toInt = s.scan.cnt.toInt - 1 := cnt_sub_one_toInt (by omega)
  have hdown : cntNegative (s.scan.cnt - 1#16) = false := (cntNegative_eq_false_iff _).mpr (by omega)
  have haddr : nextByteAddr (countedDown s) = ((rowBase s.cfg s.scan.row + a : Nat) : Int) := by
    simp only [nextByteAddr, countedDown, hsub, ha]
    push_cast
    ring
  have hin : rowBase s.cfg s.scan.row + a < s.cfg.pbufSize := rowBase_add_lt hc _ (by omega)
  have hload := txLoad_in (s := countedDown s) hin
  rw [← haddr] at hload
  refine Eq.trans ?_ hload
  simp [byteComplete, hcnt, hdown, countedDown]

/-- A Byte-Complete request is pending and its handler is not held (R154, 60_exceptions.md R205), in a
well-formed build. -/
structure BcmpReady (s : State) : Prop where
  cfgWf : s.cfg.wf = true
  isr : s.cfg.strat = .isr
  run : s.run = true
  bcPend : s.irq.bcPend = true
  order : s.cfg.irqOrder = .raFirst → s.irq.raPend = false

/-- The state after a Byte-Complete that loads a byte of the row. -/
def byteLoaded (s : State) (byte : Byte) : State :=
  { countedDown (bcTaken s) with
    shifter := { txBusy := true, shreg := byte, shcnt := 0#3 }
    outcome := .ok }

/-- The state after a Byte-Complete that has a byte to load and finds one still shifting. -/
def byteCollided (s : State) (byte : Byte) : State :=
  { countedDown (bcTaken s) with
    faults := addFault s.faults (.txCollision byte)
    outcome := .fault (.txCollision byte) }

theorem settle_nextByte_of_idle {s : State} (htx : s.shifter.txBusy = false) (byte : Byte) :
    settle s (txWrite byte (countedDown (bcTaken s))) = .next (byteLoaded s byte) := by
  rw [txWrite_of_idle (s := countedDown (bcTaken s)) htx, settle_ok]
  rfl

theorem settle_nextByte_of_shifting {s : State} (htx : s.shifter.txBusy = true) (byte : Byte) :
    settle s (txWrite byte (countedDown (bcTaken s))) = .next (byteCollided s byte) := by
  rw [txWrite_of_shifting (s := countedDown (bcTaken s)) htx, settle_fault]
  rfl

namespace BcmpReady

variable {s : State}

theorem exec_eq (h : BcmpReady s) : exec .bcmp s = settle s (byteComplete (bcTaken s)) := by
  refine exec_of_not_host (i := .bcmp) nofun (decide_eq_true h.isr) ?_
  cases ho : s.cfg.irqOrder with
  | raFirst => simp [heldWhen, h.run, h.bcPend, h.order ho]
  | any | bcFirst => simp [heldWhen, h.run, h.bcPend, ho]

theorem exec_of_neg (h : BcmpReady s) (hcnt : s.scan.cnt.toInt < 0) :
    exec .bcmp s = .next { bcTaken s with outcome := .ok } := by
  rw [h.exec_eq, byteComplete_of_neg (s := bcTaken s) hcnt, settle_ok]

theorem exec_of_zero (h : BcmpReady s) (hcnt : s.scan.cnt.toInt = 0) :
    exec .bcmp s = .next { countedDown (bcTaken s) with outcome := .ok } := by
  rw [h.exec_eq, byteComplete_of_zero (s := bcTaken s) hcnt, settle_ok]

theorem exec_of_pos (h : BcmpReady s) {a : Nat} (hpos : 1 ≤ s.scan.cnt.toInt)
    (ha : s.scan.cnt.toInt = (Config.L : Int) - a) {byte : Byte}
    (hbyte : byte = pbufByte s.pbuf (rowBase s.cfg s.scan.row + a)) :
    exec .bcmp s = settle s (txWrite byte (countedDown (bcTaken s))) := by
  subst hbyte
  rw [h.exec_eq, byteComplete_of_pos (s := bcTaken s) h.cfgWf hpos ha]
  rfl

end BcmpReady

theorem bcmp_held {s : State} (h : s.run = false ∨ s.irq.bcPend = false ∨
    (s.cfg.irqOrder = .raFirst ∧ s.irq.raPend = true)) : heldWhen .bcmp s = true := by
  rcases h with h | h | ⟨ho, hp⟩
  · simp [heldWhen, h]
  · simp [heldWhen, h]
  · simp [heldWhen, ho, hp]

/-- Settles O31: the counter's sign before and after the count decides whether a byte is written. -/
theorem bcmpLoadsNextByte : Obligations.BcmpLoadsNextByte := by
  intro s
  refine ⟨decodeEncodeRoundTrip .bcmp rfl, exec_of_otherBuild rfl rfl,
    fun hisr h => exec_of_held (i := .bcmp) rfl (decide_eq_true hisr) (bcmp_held h), ?_⟩
  intro hc hisr hrun hbc horder
  have hready : BcmpReady s := ⟨hc, hisr, hrun, hbc, horder⟩
  refine ⟨hready.exec_of_neg, fun hzero => ?last, fun k hk hkL hcnt byte hbyte => ?load⟩
  case last =>
    rw [hready.exec_of_zero (by simp [hzero])]
    simp [countedDown, bcTaken, hzero]
  case load =>
    have hint : s.scan.cnt.toInt = k := hcnt ▸ cnt_ofNat_toInt hkL
    have hsub : s.scan.cnt - 1#16 = BitVec.ofNat 16 (k - 1) := by
      refine BitVec.eq_of_toInt_eq ?_
      rw [cnt_sub_one_toInt (by omega), cnt_ofNat_toInt (by omega)]
      omega
    rw [hready.exec_of_pos (a := Config.L - k) (by omega) (by omega) hbyte]
    refine ⟨fun htx => ?_, fun htx => ?_⟩
    · rw [settle_nextByte_of_idle htx]
      simp [byteLoaded, countedDown, bcTaken, hsub]
    · rw [settle_nextByte_of_shifting htx]
      simp [byteCollided, countedDown, bcTaken, hsub]

/-! ## The one fault of a run (R146, 60_exceptions.md R200) -/

/-- The attempt ends in a fault. -/
def Faults (a : Attempt) : Prop := ∃ r t, a = .fault r t

@[simp] theorem faults_ok (t : State) : ¬Faults (.ok t) := by simp [Faults]

@[simp] theorem faults_fault (r : Fault) (t : State) : Faults (.fault r t) := ⟨r, t, rfl⟩

/-- A rest that ends well adds no fault. -/
@[simp] theorem faults_andThen_ok (a : Attempt) (k : State → State) :
    Faults (andThen a fun t => .ok (k t)) ↔ Faults a := by
  cases a <;> simp [Faults]

@[simp] theorem faults_txWrite (v : Byte) (s : State) :
    Faults (txWrite v s) ↔ s.shifter.txBusy = true := by
  cases h : s.shifter.txBusy with
  | false => simp [txWrite_of_idle h]
  | true => simp [txWrite_of_shifting h]

theorem faults_rowAdvance_iff {s : State} (hc : s.cfg.wf = true) :
    Faults (rowAdvance s) ↔ s.shifter.txBusy = true := by
  rw [rowAdvance_eq hc, faults_andThen_ok, faults_txWrite, rowAdvanceHead_shifter]

theorem exec_fault_iff (i : Instr) (s : State) :
    (∃ t r, exec i s = .next t ∧ t.outcome = .fault r) ↔
      refusedFor i s = none ∧ heldWhen i s = false ∧ Faults (body i s) := by
  constructor
  · rintro ⟨t, r, hexec, hfault⟩
    rcases exec_cases hexec with ⟨_, _, rfl⟩ | ⟨_, _, rfl⟩ | ⟨hr, hheld, hbody⟩
    · cases hfault
    · cases hfault
    · refine ⟨hr, hheld, ?_⟩
      rcases body_cases i s with ⟨u, e⟩ | ⟨r', u, e⟩ <;> rw [e] at hbody ⊢
      · cases hbody
        cases hfault
      · exact faults_fault r' u
  · rintro ⟨hr, hheld, r, t, hbody⟩
    exact ⟨_, r, by rw [exec_of_enabled hr hheld, hbody, settle_fault], rfl⟩

namespace Inv

variable {s : State}

theorem faults_byteComplete_iff (h : Inv s) :
    Faults (byteComplete s) ↔ s.shifter.txBusy = true ∧ 1 ≤ s.scan.cnt.toInt := by
  have hhigh := h.cntHigh
  rcases lt_trichotomy s.scan.cnt.toInt 0 with hcnt | hcnt | hcnt
  · simp [byteComplete_of_neg hcnt]
    omega
  · simp [byteComplete_of_zero hcnt, hcnt]
  · obtain ⟨a, ha⟩ := Int.eq_ofNat_of_zero_le (a := (Config.L : Int) - s.scan.cnt.toInt) (by omega)
    rw [byteComplete_of_pos (a := a) h.cfgWf hcnt (by omega), faults_txWrite]
    exact (and_iff_left hcnt).symm

/-- The packer and the busy loop stay inside the buffer, so only a transmit write is left to fault. -/
theorem faults_body_iff (h : Inv s) {i : Instr} (hr : refusedFor i s = none)
    (hheld : heldWhen i s = false) :
    Faults (body i s) ↔
      s.shifter.txBusy = true ∧ (i = .radv ∨ (i = .bcmp ∧ 1 ≤ s.scan.cnt.toInt)) := by
  obtain ⟨_, hbuild⟩ := inBuild_of_not_refused hr
  cases i with
  | wrpix | encfrm | scstep | start | tick | shbit => simp [body]
  | radv =>
    exact (faults_rowAdvance_iff (s := raTaken s) h.cfgWf).trans (by simp [raTaken])
  | bcmp => simpa [body] using (h.clearBcPend (of_decide_eq_true hbuild)).faults_byteComplete_iff
  | encstep =>
    have hbusy : s.enc.busy = true := by simpa [heldWhen] using hheld
    simp [body, memWrite_in _ (h.posBusy hbusy)]
  | blstep =>
    rcases shiftBit_cases s with ⟨byte, _, _, _, e⟩ | ⟨_, e⟩ | ⟨hbit, hout, _⟩
    · simp [body, e]
    · simp [body, e]
    · exact absurd (h.bitAddr_inPbuf hbit) (ne_true_of_eq_false hout)

end Inv

/-- Settles O14: the handlers are words of the `ISR` build, and of what can run only their transmit write
faults. -/
theorem collisionExactlyWhen : Obligations.CollisionExactlyWhen := by
  intro i s h
  rw [exec_fault_iff]
  constructor
  · rintro ⟨hr, hheld, hfault⟩
    obtain ⟨htx, hi⟩ := (h.faults_body_iff hr hheld).mp hfault
    obtain ⟨_, hbuild⟩ := inBuild_of_not_refused hr
    refine ⟨?_, htx, hheld, hi⟩
    rcases hi with rfl | ⟨rfl, _⟩ <;> exact of_decide_eq_true hbuild
  · rintro ⟨hisr, htx, hheld, hi⟩
    have hr : refusedFor i s = none := by
      rcases hi with rfl | ⟨rfl, _⟩ <;> exact refusedFor_of_not_host nofun (decide_eq_true hisr)
    exact ⟨hr, hheld, (h.faults_body_iff hr hheld).mpr ⟨htx, hi⟩⟩

/-! ## Running a schedule (30_encoding.md R80) -/

theorem sched_of_exec {i : Instr} {s t : State} (hexec : exec i s = .next t) : t.sched = s.sched := by
  rw [← exec_frame hexec]
  cases i <;> rfl

theorem runSchedule_nil (s : State) : runSchedule [] s = .next { s with sched := [] } := rfl

/-- A schedule runs its first word, with the rest placed, and goes on with the rest. -/
theorem runSchedule_cons {i : Instr} {s t : State} {ws : List Word} (hwf : i.wf = true)
    (hc : s.cfg.wf = true) (hf : s.faults = FaultSet.empty)
    (hexec : exec i { s with sched := ws } = .next t) :
    runSchedule (encode i :: ws) s = runSchedule ws t := by
  have hstep : step { s with sched := encode i :: ws } = .next t := by
    rw [step_of_decode_ok (s := { s with sched := encode i :: ws }) hc hf
      (decodeEncodeRoundTrip i hwf), takeWord_of_placed rfl]
    exact hexec
  have ht : { t with sched := ws } = t := by rw [← show t.sched = ws from sched_of_exec hexec]
  simp only [runSchedule, List.length_cons, runFor, hstep, ht]

/-! ## The bits of a row (R158) -/

theorem rowBits_zero (m : List Host.Cell) (base : Nat) : rowBits m base 0 = [] := rfl

theorem rowBits_succ (m : List Host.Cell) (base n : Nat) :
    rowBits m base (n + 1) =
      rowBits m base n ++ bitEvents ((pbufByte m (base + n / 8)).getLsbD (7 - n % 8)) := by
  simp [rowBits, List.range_succ, List.flatMap_append]

/-- The event is not the grayscale clock's. -/
def notClock (e : LineEvent) : Bool := decide (∀ v, e ≠ .bit .gsclk v)

theorem filter_notClock_pulse : (pulseEvents .gsclk).filter notClock = [] := by decide

theorem filter_notClock_bitEvents (v : Bool) : (bitEvents v).filter notClock = bitEvents v := by
  cases v <;> decide

theorem rises_gsclk_pulse : rises .gsclk (pulseEvents .gsclk) = 1 := by decide

theorem rises_gsclk_bitEvents (v : Bool) : rises .gsclk (bitEvents v) = 0 := by cases v <;> decide

/-! ## The fields an event, a tick and a shift leave -/

@[simp] theorem withEvents_scan (s : State) (es : List LineEvent) : (withEvents s es).scan = s.scan := rfl
@[simp] theorem withEvents_shifter (s : State) (es : List LineEvent) :
    (withEvents s es).shifter = s.shifter := rfl
@[simp] theorem withEvents_irq (s : State) (es : List LineEvent) : (withEvents s es).irq = s.irq := rfl
@[simp] theorem withEvents_faults (s : State) (es : List LineEvent) :
    (withEvents s es).faults = s.faults := rfl
@[simp] theorem withEvents_trace (s : State) (es : List LineEvent) :
    (withEvents s es).trace = s.trace ++ es := rfl

@[simp] theorem timerCount_bcPend (s : State) : (timerCount s).irq.bcPend = s.irq.bcPend := by
  simp only [timerCount]
  split <;> rfl

theorem shiftRegister_bcPend (s : State) :
    (shiftRegister s).irq.bcPend = (decide (s.shifter.shcnt = 7#3) || s.irq.bcPend) := by
  by_cases h : s.shifter.shcnt = 7#3
  · simp [shiftRegister_of_eighth h, h, requestBc]
  · simp [shiftRegister_of_not_eighth h, h]

/-- The bit count tells the eighth bit (42_scan_isr.md R147). -/
theorem ofNat_eq_seven_iff {j : Nat} (hj : j < 8) : BitVec.ofNat 3 j = 7#3 ↔ j = 7 := by
  interval_cases j <;> decide

/-! ## A row transfer under way (R156, R158)

The state `r` is the one the Row-Advance left. -/

/-- The engine runs without a fault in the build, on the row and with the buffer of `r`. -/
structure OnRow (r s : State) : Prop where
  cfgWf : s.cfg.wf = true
  isr : s.cfg.strat = .isr
  run : s.run = true
  faults : s.faults = FaultSet.empty
  cfg : s.cfg = r.cfg
  row : s.scan.row = r.scan.row
  pbuf : s.pbuf = r.pbuf

/-- The words of a transfer and the ticks leave the build, the row and the buffer as they are. -/
theorem OnRow.exec {r s t : State} {i : Instr} (h : OnRow r s) (hi : i = .tick ∨ i = .shbit ∨ i = .bcmp)
    (hexec : exec i s = .next t) (hf : t.faults = FaultSet.empty) : OnRow r t := by
  rw [← exec_frame hexec] at hf ⊢
  rcases hi with rfl | rfl | rfl <;> exact { h with faults := hf }

/-- The address of the row's byte 0. -/
def rowStart (r : State) : Nat := rowBase r.cfg r.scan.row

/-- From `r`, `n` bytes of the row and `j` bits of the next one are shifted out, and `k` ticks have come. A
Byte-Complete stale in `r` stays pending through byte 0 and merges with its own (70_reset_and_hazards.md
R245). -/
structure RowShifted (r : State) (n j k : Nat) (s : State) : Prop extends OnRow r s where
  cnt : s.scan.cnt.toInt = (Config.L : Int) - 1 - n
  shifting : n < Config.L → j < 8 →
    s.shifter = { txBusy := true
                  shreg := pbufByte r.pbuf (rowStart r + n) <<< j
                  shcnt := BitVec.ofNat 3 j }
  idle : n = Config.L ∨ j = 8 → s.shifter.txBusy = false
  bcPend : s.irq.bcPend = (decide (j = 8) || (decide (n = 0) && r.irq.bcPend))
  bits : s.trace.filter notClock =
    r.trace.filter notClock ++ rowBits r.pbuf (rowStart r) (8 * n + j)
  pulses : rises .gsclk s.trace = rises .gsclk r.trace + k
  untimed : k = 0 → s.trace = r.trace ++ rowBits r.pbuf (rowStart r) (8 * n + j)

namespace RowShifted

variable {r s : State} {n j k : Nat}

theorem setSched (h : RowShifted r n j k s) (ws : List Word) :
    RowShifted r n j k { s with sched := ws } := { h with }

/-- A Row-Advance that finds the shifter idle begins the transfer of its row. -/
theorem of_rowAdvanced (h : RadvReady s) (hf : s.faults = FaultSet.empty) :
    RowShifted (rowAdvanced s) 0 0 0 (rowAdvanced s) :=
  { cfgWf := h.cfgWf, isr := h.isr, run := h.run, faults := hf, cfg := rfl, row := rfl, pbuf := rfl
    cnt := show (23#16).toInt = 24 - 1 - 0 by decide
    shifting := fun _ _ => by simp [rowAdvanced, firstByte, rowStart, withEvents, advancedScan]
    idle := by simp
    bcPend := by simp
    bits := by simp [rowBits_zero]
    pulses := rfl
    untimed := fun _ => by simp [rowBits_zero] }

theorem exec_tick (h : RowShifted r n j k s) :
    ∃ t, exec .tick s = .next t ∧ RowShifted r n j (k + 1) t := by
  have hexec := Machine.exec_tick h.isr h.run
  refine ⟨_, hexec, { h.toOnRow.exec (.inl rfl) hexec ?faults with
    cnt := ?cnt, shifting := ?shifting, idle := ?idle, bcPend := ?bcPend, bits := ?bits
    pulses := ?pulses, untimed := nofun }⟩
  case faults => simpa using h.faults
  case cnt => simpa using h.cnt
  case shifting => simpa using h.shifting
  case idle => simpa using h.idle
  case bcPend => simpa using h.bcPend
  case bits => simpa [filter_notClock_pulse] using h.bits
  case pulses => simp [rises_gsclk_pulse, h.pulses, Nat.add_assoc]

theorem exec_shbit (h : RowShifted r n j k s) (hn : n < Config.L) (hj : j < 8) :
    ∃ t, exec .shbit s = .next t ∧ RowShifted r n (j + 1) k t := by
  have hshifter := h.shifting hn hj
  have hexec := Machine.exec_shbit h.isr (by rw [hshifter])
  have hbit : s.shifter.shreg.getLsbD 7 =
      (pbufByte r.pbuf (rowStart r + n)).getLsbD (7 - j) := by
    rw [hshifter, BitVec.getLsbD_shiftLeft]
    simp [Nat.lt_succ_iff.mp hj]
  have hevents : rowBits r.pbuf (rowStart r) (8 * n + (j + 1)) =
      rowBits r.pbuf (rowStart r) (8 * n + j) ++ bitEvents (s.shifter.shreg.getLsbD 7) := by
    rw [← Nat.add_assoc, rowBits_succ, hbit, show (8 * n + j) / 8 = n by omega,
      show (8 * n + j) % 8 = j by omega]
  have heighth : s.shifter.shcnt = 7#3 ↔ j = 7 := by
    rw [hshifter]
    exact ofNat_eq_seven_iff hj
  refine ⟨_, hexec, { h.toOnRow.exec (.inr (.inl rfl)) hexec ?faults with
    cnt := ?cnt, shifting := ?shifting, idle := ?idle, bcPend := ?bcPend, bits := ?bits
    pulses := ?pulses, untimed := ?untimed }⟩
  case faults => simpa using h.faults
  case cnt => simpa using h.cnt
  case shifting =>
    intro _ hj'
    have hne : s.shifter.shcnt ≠ 7#3 := fun h7 => by have := heighth.mp h7; omega
    rw [shiftRegister_of_not_eighth (s := withEvents s _) hne]
    simp [hshifter, BitVec.shiftLeft_add, BitVec.ofNat_add]
  case idle =>
    intro hend
    rw [shiftRegister_of_eighth (s := withEvents s _) (heighth.mpr (by omega))]
  case bcPend => simp [shiftRegister_bcPend, heighth, h.bcPend, hj.ne]
  case bits => simp [filter_notClock_bitEvents, h.bits, hevents]
  case pulses => simp [rises_gsclk_bitEvents, h.pulses]
  case untimed =>
    intro hk
    simp [h.untimed hk, hevents]

/-- The Byte-Complete after the eighth bit is not held, so it counts down and loads the row's next byte, if
there is one. -/
theorem exec_bcmp (h : RowShifted r n 8 k s) (hn : n < Config.L)
    (horder : s.cfg.irqOrder = .raFirst → s.irq.raPend = false) :
    ∃ t, exec .bcmp s = .next t ∧ RowShifted r (n + 1) 0 k t := by
  have hready : BcmpReady s := ⟨h.cfgWf, h.isr, h.run, by simp [h.bcPend], horder⟩
  have hidle := h.idle (.inr rfl)
  have hcnt := h.cnt
  have hdown : (countedDown (bcTaken s)).scan.cnt.toInt = (Config.L : Int) - 1 - (n + 1 : Nat) := by
    have hsub : (s.scan.cnt - 1#16).toInt = s.scan.cnt.toInt - 1 := cnt_sub_one_toInt (by omega)
    exact hsub.trans (by omega)
  rcases Nat.lt_or_ge (n + 1) Config.L with hmore | hlast
  · have hexec := hready.exec_of_pos (a := n + 1) (by omega) (by omega) rfl
    rw [settle_nextByte_of_idle hidle] at hexec
    refine ⟨_, hexec, { h.toOnRow.exec (.inr (.inr rfl)) hexec h.faults with
      cnt := hdown, shifting := ?shifting, idle := ?idle, bcPend := ?bcPend, bits := h.bits
      pulses := h.pulses, untimed := h.untimed }⟩
    case shifting => simp [byteLoaded, rowStart, h.cfg, h.row, h.pbuf]
    case idle => exact fun hend => absurd hend (by omega)
    case bcPend => simp [byteLoaded, countedDown, bcTaken]
  · have hexec := hready.exec_of_zero (by omega)
    refine ⟨_, hexec, { h.toOnRow.exec (.inr (.inr rfl)) hexec h.faults with
      cnt := hdown, shifting := ?shifting, idle := ?idle, bcPend := ?bcPend, bits := h.bits
      pulses := h.pulses, untimed := h.untimed }⟩
    case shifting => exact fun hlt => absurd hlt hlast.not_gt
    case idle => exact fun _ => hidle
    case bcPend => simp [countedDown, bcTaken]

end RowShifted

/-! ## Whole transfers (R158) -/

/-- Word `p` of a row transfer: eight `SHBIT`s, then the `BCMP` of their byte, and so on. -/
def transferWord (p : Nat) : Instr := if p % 9 < 8 then .shbit else .bcmp

theorem transferWord_cases (p : Nat) : transferWord p = .shbit ∨ transferWord p = .bcmp := by
  unfold transferWord
  split
  · exact .inl rfl
  · exact .inr rfl

theorem transferWord_wf (p : Nat) : (transferWord p).wf = true := by
  rcases transferWord_cases p with h | h <;> rw [h] <;> rfl

theorem byteTransfers_eq_map (n : Nat) : byteTransfers n = (List.range (9 * n)).map transferWord := by
  induction n with
  | zero => rfl
  | succ n ih =>
    have hbyte : (List.range 9).map (fun x => transferWord (9 * n + x)) = shbyte ++ [.bcmp] := by
      simp only [transferWord, Nat.mul_add_mod]
      rfl
    rw [Nat.mul_succ, List.range_add, List.map_append, ← ih, List.map_map, Function.comp_def, hbyte]
    simp [byteTransfers, List.replicate_succ']

theorem tick_notMem_byteTransfers (n : Nat) : .tick ∉ byteTransfers n := by
  rw [byteTransfers_eq_map, List.mem_map]
  rintro ⟨p, _, hp⟩
  rcases transferWord_cases p with h | h <;> simp [h] at hp

/-- No `BCMP` of the schedule is held under `RA_FIRST`: no Row-Advance is pending, and the ticks before a
`BCMP` do not reach the compare match. -/
def BcmpsNotHeld (s : State) (mid : List Instr) : Prop :=
  s.cfg.irqOrder = .raFirst → ∀ before after, mid = before ++ .bcmp :: after →
    s.irq.raPend = false ∧ (.tick ∈ before → s.tcnt + before.count .tick < s.cfg.rowPeriod)

namespace BcmpsNotHeld

variable {s t : State} {mid : List Instr}

theorem setSched (h : BcmpsNotHeld s mid) (ws : List Word) : BcmpsNotHeld { s with sched := ws } mid := h

theorem afterTick (h : BcmpsNotHeld s (.tick :: mid)) (hisr : s.cfg.strat = .isr)
    (hexec : exec .tick s = .next t) : BcmpsNotHeld t mid := by
  obtain ⟨_, _, _, hcfg⟩ := hostStateHasOneWriter .tick s t hexec
  intro ho before after hmid
  rw [hcfg] at ho ⊢
  obtain ⟨hra, hticks⟩ := h ho (.tick :: before) after (by rw [hmid]; rfl)
  have hlt : s.tcnt + (before.count .tick + 1) < s.cfg.rowPeriod := by simpa using hticks
  refine ⟨?_, fun _ => ?_⟩
  · refine Bool.eq_false_iff.mpr fun hra' => ?_
    obtain ⟨_, hmatch⟩ := (pendingBitsHaveOneSource .tick s t hexec).1 hra hra'
    omega
  · rcases exec_isr_clock hisr hexec with ⟨_, htcnt⟩ | ⟨_, htcnt⟩
    · omega
    · rw [htcnt]
      split_ifs <;> omega

theorem afterOther {i : Instr} (h : BcmpsNotHeld s (i :: mid)) (hi : i = .shbit ∨ i = .bcmp)
    (hexec : exec i s = .next t) : BcmpsNotHeld t mid := by
  rw [← exec_frame hexec]
  intro ho before after hmid
  obtain ⟨hra, hticks⟩ : s.irq.raPend = false ∧ (.tick ∈ i :: before → _) :=
    h (by rwa [writesOf_cfg] at ho) (i :: before) after (by rw [hmid]; rfl)
  rw [List.count_cons_of_ne (by rcases hi with rfl | rfl <;> decide)] at hticks
  rcases hi with rfl | rfl <;> exact ⟨hra, fun hmem => hticks (.tail _ hmem)⟩

end BcmpsNotHeld

namespace RowShifted

variable {r s : State}

theorem exec_transferWord {p k : Nat} (h : RowShifted r (p / 9) (p % 9) k s) (hp : p < 9 * Config.L)
    {mid : List Instr} (hheld : BcmpsNotHeld s (transferWord p :: mid)) :
    ∃ t, exec (transferWord p) s = .next t ∧ RowShifted r ((p + 1) / 9) ((p + 1) % 9) k t := by
  by_cases hbit : p % 9 < 8
  · rw [transferWord, if_pos hbit, show (p + 1) / 9 = p / 9 by omega,
      show (p + 1) % 9 = p % 9 + 1 by omega]
    exact h.exec_shbit (by omega) hbit
  · rw [transferWord, if_neg hbit] at hheld ⊢
    rw [show p % 9 = 8 by omega] at h
    rw [show (p + 1) / 9 = p / 9 + 1 by omega, show (p + 1) % 9 = 0 by omega]
    exact h.exec_bcmp (by omega) fun ho => (hheld ho [] mid rfl).1

/-- The words of a transfer from number `p` on, with ticks anywhere, take the row from where it is to where
they end. -/
theorem runTransfer {mid : List Instr} : ∀ {s : State} {p q k : Nat},
    RowShifted r (p / 9) (p % 9) k s → p + q ≤ 9 * Config.L → BcmpsNotHeld s mid →
    mid.filter (fun i => decide (i ≠ .tick)) = (List.range' p q).map transferWord →
    ∃ u, runSchedule (mid.map encode) s = .next u ∧
      RowShifted r ((p + q) / 9) ((p + q) % 9) (k + mid.count .tick) u := by
  induction mid with
  | nil =>
    intro s p q k h hq hheld hmid
    obtain rfl : q = 0 := by simpa using hmid
    exact ⟨_, runSchedule_nil s, h.setSched []⟩
  | cons i mid ih =>
    intro s p q k h hq hheld hmid
    have hs := h.setSched (mid.map encode)
    have hheld' := hheld.setSched (mid.map encode)
    by_cases hi : i = .tick
    · subst hi
      obtain ⟨t, hexec, ht⟩ := hs.exec_tick
      obtain ⟨u, hrun, hu⟩ := ih ht hq (hheld'.afterTick h.isr hexec) (by simpa using hmid)
      refine ⟨u, (runSchedule_cons rfl h.cfgWf h.faults hexec).trans hrun, ?_⟩
      simpa [Nat.add_assoc, Nat.add_comm 1] using hu
    · rw [List.filter_cons_of_pos (by simpa using hi)] at hmid
      cases q with
      | zero => simp at hmid
      | succ q =>
        rw [List.range'_succ, List.map_cons] at hmid
        obtain ⟨rfl, hrest⟩ := List.cons.inj hmid
        obtain ⟨t, hexec, ht⟩ := hs.exec_transferWord (by omega) hheld
        obtain ⟨u, hrun, hu⟩ :=
          ih ht (by omega) (hheld'.afterOther (transferWord_cases p) hexec) hrest
        refine ⟨u, (runSchedule_cons (transferWord_wf p) h.cfgWf h.faults hexec).trans hrun, ?_⟩
        rw [List.count_cons_of_ne hi, show p + (q + 1) = p + 1 + q by omega]
        exact hu

/-- `n` bytes of the row, with ticks anywhere. -/
theorem runBytes {mid : List Instr} {n k : Nat} (h : RowShifted r 0 0 k s) (hn : n ≤ Config.L)
    (hheld : BcmpsNotHeld s mid) (hmid : mid.filter (fun i => decide (i ≠ .tick)) = byteTransfers n) :
    ∃ u, runSchedule (mid.map encode) s = .next u ∧ RowShifted r n 0 (k + mid.count .tick) u := by
  rw [byteTransfers_eq_map, List.range_eq_range'] at hmid
  simpa using runTransfer (p := 0) (q := 9 * n) h (by omega) hheld hmid

end RowShifted

/-- The state after a Row-Advance that found the shifter idle, with the words `ws` still placed. -/
def rowBegun (s : State) (ws : List Word) : State := rowAdvanced { s with sched := ws }

namespace RadvReady

variable {s : State}

theorem run_radv (h : RadvReady s) (hf : s.faults = FaultSet.empty) (hidle : s.shifter.txBusy = false)
    (ws : List Word) : runSchedule (encode .radv :: ws) s = runSchedule ws (rowBegun s ws) :=
  have hready : RadvReady { s with sched := ws } := { h with }
  runSchedule_cons rfl h.cfgWf hf (hready.exec_of_idle hidle)

theorem rowShifted_rowBegun (h : RadvReady s) (hf : s.faults = FaultSet.empty) (ws : List Word) :
    RowShifted (rowBegun s ws) 0 0 0 (rowBegun s ws) := .of_rowAdvanced { h with } hf

end RadvReady

/-- Settles O34: with no tick the trace gains the row's bits alone, and no Row-Advance can come to hold a
`BCMP`. -/
theorem rowTransferShiftsRowInOrder : Obligations.RowTransferShiftsRowInOrder := by
  intro s n hn hc hf hisr hrun hra horder hidle
  have hready : RadvReady s := ⟨hc, hisr, hrun, hra, horder⟩
  have hticks := tick_notMem_byteTransfers n
  have hfilter : (byteTransfers n).filter (fun i => decide (i ≠ .tick)) = byteTransfers n :=
    List.filter_eq_self.mpr fun i hi => decide_eq_true fun h => hticks (h ▸ hi)
  have hheld : BcmpsNotHeld (rowBegun s ((byteTransfers n).map encode)) (byteTransfers n) :=
    fun _ before after h => ⟨rfl, fun hmem => absurd (h ▸ List.mem_append_left _ hmem) hticks⟩
  obtain ⟨u, hu, hend⟩ := (hready.rowShifted_rowBegun hf _).runBytes hn hheld hfilter
  rw [List.count_eq_zero.mpr hticks] at hend
  have hpend : u.irq.bcPend = (decide (n = 0) && s.irq.bcPend) := hend.bcPend
  refine ⟨u, (hready.run_radv hf hidle _).trans hu, ?trace, hend.cnt, hend.row,
    fun h => by simp [hpend, h], fun h => by simp [hpend, h.ne'], hend.faults, hend.pbuf,
    fun h => ?shifter, fun h => hend.idle (.inl h)⟩
  case trace => exact hend.untimed rfl
  case shifter =>
    rw [hend.shifting h (by decide), BitVec.shiftLeft_zero]
    rfl

/-- Settles O35: the transfer's words and the ticks take the row to its end, and the trace keeps what each adds
apart. -/
theorem rowTransferIgnoresTicks : Obligations.RowTransferIgnoresTicks := by
  intro s mid hc hf hisr hrun hra horder hidle hmid hticks
  have hready : RadvReady s := ⟨hc, hisr, hrun, hra, horder⟩
  have hheld : BcmpsNotHeld (rowBegun s []) mid :=
    fun ho before after h => ⟨rfl, fun _ => hticks ho before after h⟩
  obtain ⟨u, hu, hend⟩ := (hready.rowShifted_rowBegun hf []).runBytes le_rfl hheld hmid
  rw [Nat.zero_add] at hend
  exact ⟨_, u, hready.run_radv hf hidle [], hu, hend.bits, hend.pulses, BitVec.eq_of_toInt_eq hend.cnt,
    hend.idle (.inl rfl), hend.bcPend⟩

end Sys2Proof.Machine

/-! Proofs of the statements of 43_scan_busyloop.md: the word `BLSTEP` (R170 to R172), the counts of a row window
(R173), and that a `BUSY` build has no interrupt state (R176). -/

namespace Sys2Proof.Machine

/-! ## The parts of an iteration (R170, R171, R172) -/

@[simp] theorem withEvents_cfg (s : State) (es : List LineEvent) : (withEvents s es).cfg = s.cfg := rfl

/-- The line events of the row's next bit, if one is left (R171). -/
def loopBits (s : State) : List LineEvent :=
  if s.scan.bitIdx < Config.NBITS then
    bitEvents ((pbufByte s.pbuf (rowBase s.cfg s.scan.row + s.scan.bitIdx / 8)).getLsbD
      (7 - s.scan.bitIdx % 8))
  else []

/-- The bit cursor past the row's next bit, if one is left (R171). -/
def nextCursor (s : State) : Nat :=
  if s.scan.bitIdx < Config.NBITS then s.scan.bitIdx + 1 else s.scan.bitIdx

/-- The state after the bit of an iteration, before its count. -/
def bitShifted (s : State) : State :=
  { withEvents s (loopBits s) with scan := { s.scan with bitIdx := nextCursor s } }

/-- The line events of every iteration: its bit, then the grayscale-clock pulse (R170). -/
def loopEvents (s : State) : List LineEvent := loopBits s ++ pulseEvents .gsclk

/-- The line events of a row change to row `r`: latch, blank, select (R172). -/
def changeEvents (r : BitVec 3) : List LineEvent :=
  pulseEvents .xlat ++ pulseEvents .blank ++ [.rowsel (selectMask r)]

/-- In a well-formed build the row's next bit is inside the buffer, so shifting it cannot fault. -/
theorem shiftBit_eq {s : State} (hc : s.cfg.wf = true) : shiftBit s = .ok (bitShifted s) := by
  unfold bitShifted loopBits nextCursor
  by_cases hbit : s.scan.bitIdx < Config.NBITS
  · have hbyte : s.scan.bitIdx / 8 < Config.L := by
      simp only [Config.NBITS] at hbit
      omega
    have hread : memRead s (bitAddr s) =
        some (pbufByte s.pbuf (rowBase s.cfg s.scan.row + s.scan.bitIdx / 8)) :=
      memRead_in (rowBase_add_lt hc s.scan.row hbyte)
    simp only [shiftBit, if_pos hbit, hread, shiftedBit_eq_withEvents, withEvents_scan]
  · simp only [shiftBit, if_neg hbit, withEvents_nil]

theorem rowChange_eq_withEvents (s : State) :
    rowChange s =
      { withEvents s (changeEvents (s.scan.row + 1#3)) with
        scan := { s.scan with row := s.scan.row + 1#3, bitIdx := 0, pwm := s.cfg.top } } := by
  simp only [rowChange, pulse_eq_withEvents, changeEvents, ← withEvents_append]
  rfl

theorem loopCount_of_more {s : State} (h : s.scan.pwm - 1 ≠ 0) :
    loopCount s =
      { withEvents s (pulseEvents .gsclk) with scan := { s.scan with pwm := s.scan.pwm - 1 } } := by
  simp only [loopCount, pulse_eq_withEvents]
  exact if_neg h

theorem loopCount_of_last {s : State} (h : s.scan.pwm - 1 = 0) :
    loopCount s =
      { withEvents s (pulseEvents .gsclk ++ changeEvents (s.scan.row + 1#3)) with
        scan := { s.scan with row := s.scan.row + 1#3, bitIdx := 0, pwm := s.cfg.top } } := by
  simp only [loopCount, pulse_eq_withEvents, rowChange_eq_withEvents, ← withEvents_append]
  exact if_pos h

/-- The busy loop never writes `CNT`. -/
@[simp] theorem loopCount_cnt (s : State) : (loopCount s).scan.cnt = s.scan.cnt := by
  simp only [loopCount]
  split <;> rfl

/-! ## `BLSTEP` (R170) -/

/-- A running busy loop with its counter in range, in a well-formed build. -/
structure LoopReady (s : State) : Prop where
  cfgWf : s.cfg.wf = true
  busy : s.cfg.strat = .busy
  run : s.run = true
  pwmLow : 1 ≤ s.scan.pwm

/-- The state after an iteration that ends no window. -/
def loopIterated (s : State) : State :=
  { withEvents s (loopEvents s) with
    scan := { s.scan with bitIdx := nextCursor s, pwm := s.scan.pwm - 1 }
    outcome := .ok }

/-- The state after the last iteration of a window. -/
def windowEnded (s : State) : State :=
  { withEvents s (loopEvents s ++ changeEvents (s.scan.row + 1#3)) with
    scan := { s.scan with row := s.scan.row + 1#3, bitIdx := 0, pwm := s.cfg.top }
    outcome := .ok }

namespace LoopReady

variable {s : State}

theorem exec_eq (h : LoopReady s) :
    exec .blstep s = .next { loopCount (bitShifted s) with outcome := .ok } := by
  rw [exec_of_not_host (i := .blstep) nofun (decide_eq_true h.busy) (by simp [heldWhen, h.run]), body,
    shiftBit_eq h.cfgWf, andThen_ok, settle_ok]

theorem exec_of_more (h : LoopReady s) (hpwm : s.scan.pwm ≠ 1) :
    exec .blstep s = .next (loopIterated s) := by
  have hlow := h.pwmLow
  rw [h.exec_eq, loopCount_of_more (s := bitShifted s) (show s.scan.pwm - 1 ≠ 0 by omega), loopIterated,
    loopEvents, ← withEvents_append]
  rfl

theorem exec_of_last (h : LoopReady s) (hpwm : s.scan.pwm = 1) :
    exec .blstep s = .next (windowEnded s) := by
  rw [h.exec_eq, loopCount_of_last (s := bitShifted s) (Nat.sub_eq_zero_of_le hpwm.le), windowEnded,
    loopEvents, List.append_assoc, ← withEvents_append s]
  rfl

end LoopReady

/-- Settles O37: the bit comes before the count, and the count decides whether the row changes. -/
theorem blstepIteratesLoop : Obligations.BlstepIteratesLoop := by
  intro s
  refine ⟨decodeEncodeRoundTrip .blstep rfl, fun hisr => ?refused, fun hbusy hrun => ?held,
    fun hc hbusy hrun hlow bits cursor hleft hnone => ?iteration⟩
  case refused => exact exec_of_refused (refusedFor_wrongStrategy rfl (by simp [Instr.inBuild, hisr]))
  case held => exact exec_of_held (i := .blstep) rfl (decide_eq_true hbusy) (by simp [heldWhen, hrun])
  case iteration =>
    have hready : LoopReady s := ⟨hc, hbusy, hrun, hlow⟩
    obtain ⟨rfl, rfl⟩ : cursor = nextCursor s ∧ bits = loopBits s := by
      unfold nextCursor loopBits
      split
      · next hbit => exact hleft hbit
      · next hbit => exact hnone (Nat.le_of_not_lt hbit)
    refine ⟨hready.exec_of_more, fun hpwm => ?_⟩
    rw [hready.exec_of_last hpwm, windowEnded, changeEvents, loopEvents]
    simp only [List.append_assoc]

/-! ## What an iteration adds to the counts (R173) -/

theorem rises_sclk_bitEvents (v : Bool) : rises .sclk (bitEvents v) = 1 := by cases v <;> decide

@[simp] theorem rises_gsclk_loopEvents (s : State) : rises .gsclk (loopEvents s) = 1 := by
  unfold loopEvents loopBits
  split
  · rw [rises_append, rises_gsclk_bitEvents, rises_gsclk_pulse]
  · exact rises_gsclk_pulse

/-- The cursor moves with each pulse of the serial clock. -/
theorem bitIdx_add_rises_sclk_loopEvents (s : State) :
    s.scan.bitIdx + rises .sclk (loopEvents s) = nextCursor s := by
  have hpulse : rises .sclk (pulseEvents .gsclk) = 0 := by decide
  unfold loopEvents loopBits nextCursor
  split
  · rw [rises_append, rises_sclk_bitEvents, hpulse]
  · rw [List.nil_append, hpulse, Nat.add_zero]

@[simp] theorem rowselEvents_loopEvents (s : State) : rowselEvents (loopEvents s) = [] := by
  unfold loopEvents loopBits
  split <;> rfl

@[simp] theorem rises_gsclk_changeEvents (r : BitVec 3) : rises .gsclk (changeEvents r) = 0 := rfl

@[simp] theorem rises_sclk_changeEvents (r : BitVec 3) : rises .sclk (changeEvents r) = 0 := rfl

@[simp] theorem rowselEvents_changeEvents (r : BitVec 3) :
    rowselEvents (changeEvents r) = [selectMask r] := rfl

/-- The cursor is the lesser of `NBITS` and the iterations of the window, of which there is one more. -/
theorem nextCursor_of_bitIdx {s : State} {n : Nat} (h : s.scan.bitIdx = min Config.NBITS n) :
    nextCursor s = min Config.NBITS (n + 1) := by
  unfold nextCursor
  split <;> omega

/-! ## The counts of a row window (R173) -/

/-- In the same build, no line event and no move of the scan. -/
def SameWindow (s t : State) : Prop := t.cfg = s.cfg ∧ t.scan = s.scan ∧ t.trace = s.trace

/-- In a `BUSY` build only a `BLSTEP` of the running loop moves the window. -/
theorem exec_busy_window {i : Instr} {s t : State} (hbusy : s.cfg.strat = .busy)
    (hexec : exec i s = .next t) : SameWindow s t ∨ (i = .blstep ∧ s.run = true) := by
  rcases exec_cases hexec with ⟨_, _, rfl⟩ | ⟨_, _, rfl⟩ | ⟨hr, hheld, _⟩
  · exact .inl ⟨rfl, rfl, rfl⟩
  · exact .inl ⟨rfl, rfl, rfl⟩
  · obtain ⟨_, hbuild⟩ := inBuild_of_not_refused hr
    cases i with
    | wrpix | encfrm | scstep | start | encstep =>
      rw [← exec_frame hexec]
      exact .inl ⟨rfl, rfl, rfl⟩
    | tick | radv | bcmp | shbit => simp [Instr.inBuild, hbusy] at hbuild
    | blstep => exact .inr ⟨rfl, by simpa [heldWhen] using hheld⟩

namespace WindowCounts

variable {s t : State}

theorem of_sameWindow (h : WindowCounts s) (hst : SameWindow s t) : WindowCounts t := by
  obtain ⟨hcfg, hscan, htrace⟩ := hst
  simpa only [WindowCounts, hcfg, hscan, htrace] using h

/-- The window has one more clock pulse and, if one was left, one more bit. -/
theorem afterIteration (h : WindowCounts s) (hlow : 1 ≤ s.scan.pwm) (hhigh : s.scan.pwm ≤ s.cfg.top) :
    WindowCounts (loopIterated s) := by
  intro hbusy
  obtain ⟨hpulses, hcursor, hbits⟩ := h hbusy
  have hcount : s.cfg.top - (s.scan.pwm - 1) = s.cfg.top - s.scan.pwm + 1 := by omega
  refine ⟨?pulses, ?cursor, ?bits⟩
  case pulses => simp [loopIterated, hpulses, hcount, Nat.add_assoc]
  case cursor => exact (nextCursor_of_bitIdx hcursor).trans (congrArg _ hcount.symm)
  case bits => simp [loopIterated, ← bitIdx_add_rises_sclk_loopEvents, hbits, Nat.add_assoc]

/-- The window that ends has had `TOP` clock pulses and `min(TOP, NBITS)` bits, and the next one begins. -/
theorem afterLastIteration (h : WindowCounts s) (hpwm : s.scan.pwm = 1) (htop : 1 ≤ s.cfg.top) :
    WindowCounts (windowEnded s) := by
  intro hbusy
  obtain ⟨hpulses, hcursor, hbits⟩ := h hbusy
  have hcount : s.cfg.top - s.scan.pwm + 1 = s.cfg.top := by omega
  have hfull : s.scan.bitIdx + rises .sclk (loopEvents s) = min s.cfg.top Config.NBITS := by
    rw [bitIdx_add_rises_sclk_loopEvents, nextCursor_of_bitIdx hcursor, hcount, Nat.min_comm]
  refine ⟨?pulses, ?cursor, ?bits⟩
  case pulses => simp [windowEnded, hpulses, hcount, Nat.add_assoc, Nat.add_mul]
  case cursor => simp [windowEnded]
  case bits => simp [windowEnded, hbits, hfull, Nat.add_assoc, Nat.add_mul]

theorem exec {i : Instr} (hinv : Inv s) (hexec : exec i s = .next t) (h : WindowCounts s) :
    WindowCounts t := by
  intro hbusy'
  obtain ⟨_, _, _, hcfg⟩ := hostStateHasOneWriter i s t hexec
  have hbusy : s.cfg.strat = .busy := hcfg ▸ hbusy'
  rcases exec_busy_window hbusy hexec with hsame | ⟨rfl, hrun⟩
  · exact h.of_sameWindow hsame hbusy'
  · have hready : LoopReady s := ⟨hinv.cfgWf, hbusy, hrun, hinv.pwmLow⟩
    by_cases hpwm : s.scan.pwm = 1
    · cases (hready.exec_of_last hpwm).symm.trans hexec
      exact h.afterLastIteration hpwm (hinv.pwmLow.trans hinv.pwmHigh) hbusy'
    · cases (hready.exec_of_more hpwm).symm.trans hexec
      exact h.afterIteration hinv.pwmLow hinv.pwmHigh hbusy'

end WindowCounts

/-- Settles O54: a step moves no window, or is one iteration, whose counts start again where the window ends. -/
theorem stepKeepsWindowCounts : Obligations.StepKeepsWindowCounts := by
  intro s t hinv h hstep
  have htaken : WindowCounts (takeWord s) :=
    h.of_sameWindow ⟨takeWord_cfg s, takeWord_scan s, takeWord_trace s⟩
  obtain ⟨_, ⟨i, _, hexec⟩ | ⟨r, _, rfl⟩⟩ := step_cases hstep
  · exact htaken.exec hinv.afterTakeWord hexec
  · exact htaken.of_sameWindow ⟨rfl, rfl, rfl⟩

/-! ## No interrupt state (R176) -/

/-- The interrupt-driven strategy's state is as it was, and no transmit collision is recorded or reported. -/
def NoInterrupt (s t : State) : Prop :=
  t.irq = s.irq ∧ t.shifter = s.shifter ∧ t.scan.cnt = s.scan.cnt ∧ t.tcnt = s.tcnt ∧
    t.faults.txCollision = s.faults.txCollision ∧ ∀ v, t.outcome ≠ .fault (.txCollision v)

namespace NoInterrupt

/-- Of the words a `BUSY` build has, only `ENCSTEP` and `BLSTEP` can fault, by an address each. -/
theorem body {i : Instr} (hbuild : i.inBuild .busy = true) (s : State) :
    NoInterrupt s (settled s (body i s)) := by
  cases i with
  | tick | radv | bcmp | shbit => cases hbuild
  | wrpix | encfrm | scstep | start => exact ⟨rfl, rfl, rfl, rfl, rfl, nofun⟩
  | encstep =>
    rcases memWrite_cases (s.enc.pos : Int) (nextPacked s) s with ⟨_, e⟩ | ⟨_, e⟩ <;>
      simp only [Machine.body, e, andThen_ok, andThen_fault] <;>
      exact ⟨rfl, rfl, rfl, rfl, rfl, nofun⟩
  | blstep =>
    rcases shiftBit_cases s with ⟨_, _, _, _, e⟩ | ⟨_, e⟩ | ⟨_, _, e⟩
    · simp [NoInterrupt, Machine.body, e, settled]
    · simp [NoInterrupt, Machine.body, e, settled]
    · simp only [Machine.body, e, andThen_fault]
      exact ⟨rfl, rfl, rfl, rfl, rfl, nofun⟩

theorem exec {i : Instr} {s t : State} (hbusy : s.cfg.strat = .busy) (hexec : exec i s = .next t) :
    NoInterrupt s t := by
  rcases exec_cases hexec with ⟨_, _, rfl⟩ | ⟨_, _, rfl⟩ | ⟨hr, _, hbody⟩
  · exact ⟨rfl, rfl, rfl, rfl, rfl, nofun⟩
  · exact ⟨rfl, rfl, rfl, rfl, rfl, nofun⟩
  · obtain ⟨_, hbuild⟩ := inBuild_of_not_refused hr
    cases hbody
    exact body (hbusy ▸ hbuild) s

end NoInterrupt

/-- Settles O38: taking a word or marking a refused one touches no such state, nor does a word of the
build. -/
theorem busyBuildHasNoInterruptState : Obligations.BusyBuildHasNoInterruptState := by
  intro s t hbusy hstep
  obtain ⟨_, ⟨i, _, hexec⟩ | ⟨r, _, rfl⟩⟩ := step_cases hstep
  · simpa [NoInterrupt] using NoInterrupt.exec (by rwa [takeWord_cfg]) hexec
  · simp

end Sys2Proof.Machine

/-! Proofs of the statements of 60_exceptions.md: which reasons a step records (R206, R215) and how they stop the
machine (R215), which of two pending handlers is held (R205), and what a handler leaves as it was (R207, R209). -/

namespace Sys2Proof.Machine

/-! ## Recorded reasons (R206, R215) -/

/-- The reasons recorded after a step with the given outcome, where those of `f` were recorded before it. -/
def reasonsAfter (f : FaultSet) : StepOutcome → FaultSet
  | .fault r => addFault f r
  | _ => f

theorem reasonsAfter_of_not_fault {f : FaultSet} {o : StepOutcome} (h : ∀ r, o ≠ .fault r) :
    reasonsAfter f o = f := by
  cases o with
  | fault r => exact absurd rfl (h r)
  | _ => rfl

/-- Past taking its request, Row-Advance moves no pending or lost bit; a fault it ends in is recorded (42_scan_isr.md
R150). -/
theorem settled_rowAdvance_irq_faults (s₀ s : State) :
    (settled s₀ (rowAdvance s)).irq = s.irq ∧
      (settled s₀ (rowAdvance s)).faults =
        reasonsAfter s.faults (settled s₀ (rowAdvance s)).outcome := by
  rcases rowAdvance_cases s with ⟨_, _, _, _, e⟩ | ⟨_, _, _, _, e⟩ | ⟨_, _, _, e⟩ <;>
    simp [e, settled, reasonsAfter]

/-- Past taking its request, Byte-Complete moves no pending or lost bit; a fault it ends in is recorded (42_scan_isr.md
R155). -/
theorem settled_byteComplete_irq_faults (s₀ s : State) :
    (settled s₀ (byteComplete s)).irq = s.irq ∧
      (settled s₀ (byteComplete s)).faults =
        reasonsAfter s.faults (settled s₀ (byteComplete s)).outcome := by
  rcases byteComplete_cases s with ⟨_, e⟩ | ⟨_, _, e⟩ |
    ⟨_, _, _, _, _, _, ⟨_, _, e⟩ | ⟨_, _, e⟩ | ⟨_, e⟩⟩ <;>
    simp [e, settled, reasonsAfter]

/-- A body faults by one access, which records the reason it raises. -/
theorem settled_body_faults (i : Instr) (s : State) :
    (settled s (body i s)).faults = reasonsAfter s.faults (settled s (body i s)).outcome := by
  cases i with
  | wrpix | encfrm | scstep | start => rfl
  | tick => exact timerCount_faults _
  | shbit => exact shiftRegister_faults _
  | radv => exact (settled_rowAdvance_irq_faults s (raTaken s)).2
  | bcmp => exact (settled_byteComplete_irq_faults s (bcTaken s)).2
  | encstep =>
    rcases memWrite_cases (s.enc.pos : Int) (nextPacked s) s with ⟨_, e⟩ | ⟨_, e⟩ <;>
      simp [body, e, settled, reasonsAfter]
  | blstep =>
    rcases shiftBit_cases s with ⟨_, _, _, _, e⟩ | ⟨_, e⟩ | ⟨_, _, e⟩ <;>
      simp [body, e, settled, reasonsAfter]

theorem exec_faults {i : Instr} {s t : State} (hexec : exec i s = .next t) :
    t.faults = reasonsAfter s.faults t.outcome := by
  rcases exec_cases hexec with ⟨r, _, rfl⟩ | ⟨_, _, rfl⟩ | ⟨_, _, hbody⟩
  · rfl
  · rfl
  · cases hbody
    exact settled_body_faults i s

/-- Settles O15: the outcome alone says what is added to the recorded reasons. -/
theorem faultsRecordedByOutcome : Obligations.FaultsRecordedByOutcome := by
  intro i s t hexec
  rw [exec_faults hexec]
  exact ⟨fun r hfault => by rw [hfault, reasonsAfter], reasonsAfter_of_not_fault⟩

/-! ## The stop of a faulted state (R215) -/

theorem firstFault_of_collision {f : FaultSet} {byte : Byte} (h : f.txCollision = some byte) :
    firstFault f = some (.txCollision byte) := by simp [firstFault, h]

theorem firstFault_of_bufRange {f : FaultSet} {addr : Int} (hnone : f.txCollision = none)
    (h : f.bufRange = some addr) : firstFault f = some (.bufRange addr) := by simp [firstFault, hnone, h]

theorem stopped_of_fault {s : State} {r : Fault} (hc : s.cfg.wf = true)
    (h : firstFault s.faults = some r) : stopped s = some (.fault r) := by simp [stopped, hc, h]

/-- Settles O8: the recorded reason of the lowest code stops the machine before it takes a word. -/
theorem faultedStateTakesNoStep : Obligations.FaultedStateTakesNoStep := fun _ hc =>
  ⟨fun _ h => step_of_stopped (stopped_of_fault hc (firstFault_of_collision h)),
    fun _ hnone h => step_of_stopped (stopped_of_fault hc (firstFault_of_bufRange hnone h))⟩

/-! ## Two pending requests (R205) -/

/-- A body that runs ends well or in a fault. -/
theorem settled_body_not_held (i : Instr) (s : State) : (settled s (body i s)).outcome ≠ .hold := by
  rcases body_cases i s with ⟨_, e⟩ | ⟨_, _, e⟩ <;> rw [e] <;> exact nofun

theorem radv_taken {s : State} (hisr : s.cfg.strat = .isr) (hheld : heldWhen .radv s = false) :
    ∃ t, exec .radv s = .next t ∧ t.outcome ≠ .hold ∧ t.irq.raPend = false := by
  refine ⟨_, exec_of_not_host nofun (decide_eq_true hisr) hheld, settled_body_not_held .radv s, ?_⟩
  exact congrArg IrqState.raPend (settled_rowAdvance_irq_faults s (raTaken s)).1

theorem bcmp_taken {s : State} (hisr : s.cfg.strat = .isr) (hheld : heldWhen .bcmp s = false) :
    ∃ t, exec .bcmp s = .next t ∧ t.outcome ≠ .hold ∧ t.irq.bcPend = false := by
  refine ⟨_, exec_of_not_host nofun (decide_eq_true hisr) hheld, settled_body_not_held .bcmp s, ?_⟩
  exact congrArg IrqState.bcPend (settled_byteComplete_irq_faults s (bcTaken s)).1

/-- Settles O32: an order holds the handler it puts second, and nothing holds the other. -/
theorem pendingHandlersFollowOrder : Obligations.PendingHandlersFollowOrder := by
  refine ⟨rfl, fun s hisr hrun hra hbc => ?_⟩
  have hradv (ho : s.cfg.irqOrder ≠ .bcFirst) : heldWhen .radv s = false := by
    simp [heldWhen, hrun, hra, ho]
  have hbcmp (ho : s.cfg.irqOrder ≠ .raFirst) : heldWhen .bcmp s = false := by
    simp [heldWhen, hrun, hbc, ho]
  refine ⟨fun ho => ⟨?bcmpHeld, ?radvFirst⟩, fun ho => ⟨?radvHeld, ?bcmpFirst⟩,
    fun ho => ⟨?radvAny, ?bcmpAny⟩⟩
  case bcmpHeld => exact exec_of_held rfl (decide_eq_true hisr) (bcmp_held (.inr (.inr ⟨ho, hra⟩)))
  case radvHeld => exact exec_of_held rfl (decide_eq_true hisr) (radv_held (.inr (.inr ⟨ho, hbc⟩)))
  case radvFirst | radvAny => exact radv_taken hisr (hradv (by simp [ho]))
  case bcmpFirst | bcmpAny => exact bcmp_taken hisr (hbcmp (by simp [ho]))

/-! ## What a handler leaves (R207, R209) -/

/-- Settles O33: none of these fields is in a handler's frame, but for its own pending bit. -/
theorem handlersKeepMainContext : Obligations.HandlersKeepMainContext := by
  intro i s t hirq hexec
  rw [← exec_frame hexec]
  cases i with
  | radv => exact ⟨rfl, rfl, rfl, rfl, rfl, rfl, rfl, rfl, fun _ => rfl, nofun⟩
  | bcmp => exact ⟨rfl, rfl, rfl, rfl, rfl, rfl, rfl, rfl, nofun, fun _ => rfl⟩
  | _ => cases hirq

end Sys2Proof.Machine

/-! Proofs of the statements of 70_reset_and_hazards.md: what a Byte-Complete pending across a Row-Advance does
(R245), and that every run from reset keeps every invariant (R252, R253). -/

namespace Sys2Proof.Machine

/-! ## What every step keeps, every run keeps (30_encoding.md R80) -/

theorem runFor_keeps {P : State → Prop} (hkept : ∀ s t, P s → step s = .next t → P t) {n : Nat} :
    ∀ {s t : State}, P s → runFor n s = .next t → P t := by
  induction n with
  | zero =>
    intro s t hs hrun
    cases hrun
    exact hs
  | succ n ih =>
    intro s t hs hrun
    cases hstep : step s with
    | next u =>
      rw [runFor, hstep] at hrun
      exact ih (hkept s u hs hstep) hrun
    | fault r | refused r =>
      rw [runFor, hstep] at hrun
      cases hrun

/-! ## A stale Byte-Complete (R245) -/

/-- Taking a word moves no request, and no instruction clears `BC_LOST` (10_state.md R31). -/
theorem step_keeps_bcLost (s t : State) (hlost : s.irq.bcLost = true) (hstep : step s = .next t) :
    t.irq.bcLost = true := by
  have htaken : (takeWord s).irq.bcLost = true := by rwa [takeWord_irq]
  obtain ⟨_, ⟨i, _, hexec⟩ | ⟨r, _, rfl⟩⟩ := step_cases hstep
  · obtain ⟨_, hkept, _⟩ := stickyMarksStay i _ t hexec
    exact hkept htaken
  · exact htaken

theorem runSchedule_keeps_bcLost {ws : List Word} {s t : State} (hlost : s.irq.bcLost = true)
    (hrun : runSchedule ws s = .next t) : t.irq.bcLost = true :=
  runFor_keeps step_keeps_bcLost (s := { s with sched := ws }) hlost hrun

/-- A Byte-Complete request that finds one pending merges with it (60_exceptions.md R203). -/
theorem exec_shbit_merges {s t : State} (hisr : s.cfg.strat = .isr) (htx : s.shifter.txBusy = true)
    (heighth : s.shifter.shcnt = 7#3) (hpend : s.irq.bcPend = true)
    (hexec : exec .shbit s = .next t) : t.irq.bcLost = true := by
  rw [exec_shbit hisr htx, shiftRegister_of_eighth (s := withEvents s _) heighth] at hexec
  cases hexec
  simp [requestBc, hpend]

/-- The Row-Advance that left `r` found a Byte-Complete pending, and `j` bits of byte 0 are shifted out since. The
request is still there, and the eighth bit's has merged with it. -/
structure StaleShifted (r : State) (j : Nat) (s : State) : Prop extends RowShifted r 0 j 0 s where
  stale : r.irq.bcPend = true
  raPend : s.irq.raPend = false
  merged : j = 8 → s.irq.bcLost = true

namespace StaleShifted

variable {r s : State} {j : Nat}

theorem setSched (h : StaleShifted r j s) (ws : List Word) : StaleShifted r j { s with sched := ws } :=
  { h with }

theorem bcmpReady (h : StaleShifted r j s) : BcmpReady s :=
  { h with bcPend := by simp [h.bcPend, h.stale], order := fun _ => h.raPend }

theorem exec_shbit (h : StaleShifted r j s) (hj : j < 8) :
    ∃ t, exec .shbit s = .next t ∧ StaleShifted r (j + 1) t := by
  obtain ⟨t, hexec, ht⟩ := h.toRowShifted.exec_shbit (by decide) hj
  have hshifter := h.shifting (by decide) hj
  refine ⟨t, hexec, { ht with stale := h.stale, raPend := ?raPend, merged := fun hend => ?merged }⟩
  case raPend =>
    rw [← exec_frame hexec]
    exact h.raPend
  case merged =>
    obtain rfl : j = 7 := by omega
    exact exec_shbit_merges h.isr (by rw [hshifter]) (by rw [hshifter]) h.bcmpReady.bcPend hexec

/-- Taken before byte 0 ends, the stale request counts byte 0 as done and writes byte 1 while it shifts. -/
theorem exec_bcmp_collides (h : StaleShifted r j s) (hj : j < 8) :
    exec .bcmp s = .next (byteCollided s (pbufByte r.pbuf (rowStart r + 1))) := by
  have hcnt : s.scan.cnt.toInt = 23 := h.cnt
  have hbyte : pbufByte r.pbuf (rowStart r + 1) =
      pbufByte s.pbuf (rowBase s.cfg s.scan.row + 1) := by rw [h.pbuf, h.cfg, h.row, rowStart]
  rw [h.bcmpReady.exec_of_pos (a := 1) (by omega) hcnt hbyte]
  exact settle_nextByte_of_shifting (by rw [h.shifting (by decide) hj]) _

theorem run_shbits (ws : List Word) {q : Nat} : ∀ {s : State} {j : Nat}, StaleShifted r j s → j + q ≤ 8 →
    ∃ t, runSchedule ((List.replicate q Instr.shbit).map encode ++ ws) s = runSchedule ws t ∧
      StaleShifted r (j + q) t := by
  induction q with
  | zero => exact fun h _ => ⟨_, rfl, h⟩
  | succ q ih =>
    intro s j h hq
    obtain ⟨t, hexec, ht⟩ := (h.setSched _).exec_shbit (by omega)
    obtain ⟨u, hrun, hu⟩ := ih ht (by omega)
    refine ⟨u, (runSchedule_cons rfl h.cfgWf h.faults hexec).trans hrun, ?_⟩
    rwa [Nat.add_right_comm] at hu

end StaleShifted

namespace RadvReady

variable {s : State} (h : RadvReady s) (hf : s.faults = FaultSet.empty)
  (hidle : s.shifter.txBusy = false) (hstale : s.irq.bcPend = true)

include h hf hidle hstale

/-- A Row-Advance with a Byte-Complete pending, then `n` bits of byte 0. -/
theorem run_radv_shbits {n : Nat} (hn : n ≤ 8) (rest : List Instr) :
    ∃ r t, StaleShifted r n t ∧ r.pbuf = s.pbuf ∧ rowStart r = rowBase s.cfg (s.scan.row + 1#3) ∧
      runSchedule ((.radv :: (List.replicate n .shbit ++ rest)).map encode) s =
        runSchedule (rest.map encode) t := by
  rw [List.map_cons, List.map_append, h.run_radv hf hidle]
  have hbegun (ws : List Word) : StaleShifted (rowBegun s ws) 0 (rowBegun s ws) :=
    { h.rowShifted_rowBegun hf ws with stale := hstale, raPend := rfl, merged := nofun }
  obtain ⟨t, hrun, ht⟩ := (hbegun _).run_shbits (rest.map encode) (q := n) (by omega)
  rw [Nat.zero_add] at ht
  exact ⟨_, t, ht, rfl, rfl, hrun⟩

/-- R245 (a): the `BCMP` after the bits takes the stale request. -/
theorem run_collides {n : Nat} (hn : n < 8) :
    let byte1 := pbufByte s.pbuf (rowBase s.cfg (s.scan.row + 1#3) + 1)
    ∃ t, runSchedule ((.radv :: (List.replicate n .shbit ++ [.bcmp])).map encode) s = .next t ∧
      t.scan.cnt = 22#16 ∧ t.outcome = .fault (.txCollision byte1) ∧
      t.faults = addFault FaultSet.empty (.txCollision byte1) := by
  obtain ⟨r, t, ht, hpbuf, hstart, hrun⟩ := h.run_radv_shbits hf hidle hstale hn.le [.bcmp]
  have hcnt : t.scan.cnt = 23#16 := BitVec.eq_of_toInt_eq ht.cnt
  have hexec := (ht.setSched []).exec_bcmp_collides hn
  rw [hpbuf, hstart] at hexec
  refine ⟨_, hrun.trans (runSchedule_cons rfl ht.cfgWf ht.faults hexec), ?cnt, rfl, ?faults⟩
  case cnt => simp [byteCollided, countedDown, bcTaken, hcnt]
  case faults => simp [byteCollided, countedDown, bcTaken, ht.faults]

/-- R245 (b), up to byte 1: the `BCMP` takes the merged request, and finds the shifter idle. -/
theorem run_loads_byte1 :
    ∃ t, runSchedule ((.radv :: (shbyte ++ [.bcmp])).map encode) s = .next t ∧
      t.scan.cnt = 22#16 ∧ t.irq.bcLost = true ∧ t.faults = FaultSet.empty ∧
      t.shifter = { txBusy := true
                    shreg := pbufByte s.pbuf (rowBase s.cfg (s.scan.row + 1#3) + 1)
                    shcnt := 0#3 } := by
  obtain ⟨r, t, ht, hpbuf, hstart, hrun⟩ := h.run_radv_shbits hf hidle hstale le_rfl [.bcmp]
  obtain ⟨u, hexec, hu⟩ :=
    (ht.setSched []).toRowShifted.exec_bcmp (by decide) fun _ => ht.raPend
  obtain ⟨_, hkept, _⟩ := stickyMarksStay .bcmp _ u hexec
  refine ⟨_, hrun.trans (runSchedule_cons rfl ht.cfgWf ht.faults hexec), BitVec.eq_of_toInt_eq hu.cnt,
    hkept (ht.merged rfl), hu.faults, (hu.shifting (by decide) (by decide)).trans ?_⟩
  rw [hpbuf, hstart, BitVec.shiftLeft_zero]

/-- Byte 0's completion merges with the stale request, and the rest of the transfer keeps the mark. -/
theorem rowxfer_marks_bcLost {t : State}
    (hrun : runSchedule (rowxfer.map encode) s = .next t) : t.irq.bcLost = true := by
  obtain ⟨_, u, hu, _, _, hbyte0⟩ :=
    h.run_radv_shbits hf hidle hstale le_rfl (.bcmp :: byteTransfers 23)
  exact runSchedule_keeps_bcLost (hu.merged rfl) (hbyte0.symm.trans hrun)

end RadvReady

/-- Settles O36: before byte 0 ends the stale request's transmit write collides; after it, the row runs as any
other, with the merge marked. -/
theorem staleByteComplete : Obligations.StaleByteComplete := by
  intro s hc hf hisr hrun hra hstale hidle horder
  have hready : RadvReady s := ⟨hc, hisr, hrun, hra, fun ho => absurd ho horder⟩
  refine ⟨fun n hn => hready.run_collides hf hidle hstale hn,
    hready.run_loads_byte1 hf hidle hstale, ?_⟩
  obtain ⟨t, hrow, htrace, hcnt, _, _, hpend, hfaults, _, _, hend⟩ :=
    rowTransferShiftsRowInOrder s Config.L le_rfl hc hf hisr hrun hra hready.order hidle
  exact ⟨t, hrow, htrace, BitVec.eq_of_toInt_eq hcnt,
    hready.rowxfer_marks_bcLost hf hidle hstale hrow, hpend (by decide), hend rfl, hfaults⟩

/-! ## Every run from reset (R252, R253) -/

/-- Appended events move the lines as a replay of them does (00_scope.md R10). -/
theorem step_keeps_linesFollowTrace {s t : State} (h : LinesFollowTrace s) (hstep : step s = .next t) :
    LinesFollowTrace t := by
  obtain ⟨es, htrace, hlines⟩ := traceOnlyGrows s t hstep
  have hs : s.lines = s.trace.foldl applyEvent Lines.reset := h
  rw [LinesFollowTrace, hlines, htrace, hs, replay, List.foldl_append]

/-- Every invariant at once. -/
structure AllInvariants (s : State) : Prop where
  inv : Inv s
  pass : PassPrefix s
  rows : RowCycleOrder s
  timer : TimerCountsPulses s
  window : WindowCounts s
  scale : ScaleInBounds s
  lines : LinesFollowTrace s

theorem step_keeps_allInvariants (s t : State) (h : AllInvariants s) (hstep : step s = .next t) :
    AllInvariants t where
  inv := stepKeepsInv s t h.inv hstep
  pass := stepKeepsPassPrefix s t h.inv h.pass hstep
  rows := stepKeepsRowCycleOrder s t h.rows hstep
  timer := stepKeepsTimerCount s t h.timer hstep
  window := stepKeepsWindowCounts s t h.inv h.window hstep
  scale := stepKeepsScaleInBounds s t h.scale hstep
  lines := step_keeps_linesFollowTrace h.lines hstep

/-- No invariant speaks of the words placed. -/
theorem reset_allInvariants {c : Config} (hc : c.wf = true) (ws : List Word) :
    AllInvariants { State.resetWith c with sched := ws } :=
  have ⟨hpass, hrows, htimer, hwindow, hscale, hlines⟩ := resetMeetsTraceInvariants c
  ⟨{ resetMeetsInv c hc with }, hpass, hrows, htimer, hwindow, hscale, hlines⟩

/-- Settles O56: reset meets the invariants, and every step of a run keeps them. -/
theorem everyRunMeetsInvariants : Obligations.EveryRunMeetsInvariants := by
  intro c ws n t hc hrun
  obtain ⟨hinv, hpass, hrows, htimer, hwindow, hscale, hlines⟩ :=
    runFor_keeps step_keeps_allInvariants (reset_allInvariants hc ws) hrun
  exact ⟨hinv, hpass, hrows, htimer, hwindow, hscale, hlines⟩

end Sys2Proof.Machine
